-- ==== Sys2Proof/Word.lean ====
section
/-! DEFINITION. The word types of the CORE (00_scope.md R4, 10_state.md R10). Every register holds an unsigned
value (R5); there is no signed quantity and no sign extension anywhere. What is `CAP` or `FBW` bits wide has a
width that depends on the parameter `CAP`; it is a natural number, under the bounds that `WellFormed` and
`BufferSound` state (log entry 2). -/

namespace Sys2Proof

/-- One byte of the object stream: the `data` field of BYTE (30_encoding.md R59). -/
abbrev Byte := BitVec 8

/-- One nibble, the unit the drain loop moves (00_scope.md R4 "drain width"). -/
abbrev Nibble := BitVec 4

/-- A 20-bit field of the object stream: prologue, size or offset (R50); also the width of `skip` (R14). -/
abbrev Field20 := BitVec 20

end Sys2Proof
end

