-- ==== Sys2Proof/Config.lean ====
section
/-! DEFINITION. What an implementation of the CORE fixes before a run: the parameters `CAP` and `PT` of
00_scope.md R4. They are plain data, so that one `exec` serves every admissible choice: a state carries its
parameters (log entries 2 and 3), and a statement about every state is a statement about every parameter. -/

namespace Sys2Proof

/-- The seven literal skip counts a fixed-skip prologue may have (30_encoding.md R55 item 5). -/
inductive FixSkip
  | n7 | n10 | n11 | n21 | n26 | n37 | n47
deriving DecidableEq, Repr, Inhabited

/-- All seven, in the order R55 lists them. -/
def FixSkip.all : List FixSkip := [.n7, .n10, .n11, .n21, .n26, .n37, .n47]

/-- One fixed-skip row of the prologue table: `P_FIX[i]` and `FIXSKIP[i]`. -/
structure FixRow where
  code : Field20
  skip : FixSkip
deriving DecidableEq, Repr, Inhabited

/-- The prologue table `PT` (R55). Its shape is items 1 to 6 of R55: nine size-prefixed codes, three
short-length codes, one directory code, nine fixed-skip codes, and no code for `AwaitingExtendedLength`. -/
structure PrologueTable where
  size  : Vector Field20 9
  ascic : Vector Field20 3
  dir   : Field20
  fix   : Vector FixRow 9
deriving DecidableEq, Repr

/-- The 22 codes of the domain of `PT`. -/
def PrologueTable.codes (pt : PrologueTable) : List Field20 :=
  pt.size.toList ++ pt.ascic.toList ++ [pt.dir] ++ pt.fix.toList.map FixRow.code

/-- R55 item 1: the 22 codes are distinct. -/
abbrev PrologueTable.CodesDistinct (pt : PrologueTable) : Prop := pt.codes.Nodup

/-- R55, the part that the shape does not already say: 22 distinct codes, and every one of the seven skip
values taken by at least one fixed-skip code. -/
abbrev PrologueTable.Admissible (pt : PrologueTable) : Prop :=
  pt.CodesDistinct ∧ ∀ k ∈ FixSkip.all, k ∈ pt.fix.toList.map FixRow.skip

/-- The parameters of one CORE (R4): the buffer capacity in bits and the prologue table. The other parameters
of R4 follow from the capacity (`FBW`, `NBW`), are fixed by the types (`SKW = 20`, 16-bit checksum) or are natural
numbers (`nibbleCount`, log entry 7). -/
structure Params where
  cap   : Nat
  table : PrologueTable
deriving DecidableEq, Repr

/-- `FBW = NBW = ceil(log2(CAP + 1))` (R4): the width of `fillBits` and of the `nbits` bus, 7 for `CAP = 64`. -/
def Params.nbw (p : Params) : Nat := Nat.log2 p.cap + 1

/-- The configurations R142 item 1 allows: `CAP >= 32` and a table admitted by R55. -/
abbrev Params.Legal (p : Params) : Prop := 32 ≤ p.cap ∧ p.table.Admissible

/-- `CAP = 64`, the value R4 gives the parameter. -/
def Config.cap : Nat := 64

end Sys2Proof
end

