-- ==== Sys2Proof/Syntax.lean ====
section
/-! DEFINITION. The operations of the CORE as syntax, one constructor per row of spec/opcode_table.json: four
commands (30_encoding.md R59), nine micro-operations with the five arm rows of SCAN and seven reserved selects
(R60, R61), and the prologue codes of the object stream with the default row (R55 to R57). -/

namespace Sys2Proof

/-- The five parse phases of the scanner (10_state.md R13, 30_encoding.md R62). -/
inductive Mode
  | scanning | awaitingSize | awaitingShortLength | awaitingExtendedLength | awaitingDirOffset
deriving DecidableEq, Repr, Inhabited

/-- One constructor per row of spec/opcode_table.json. -/
inductive Instr
  -- commands, format C (43_stream_decoder.md R106 to R109); the `data` field of NOP, EOS and RESET is ignored
  | nop
  | byte (b : Byte)
  | eos
  | reset
  -- micro-operations, format U (R60), with the operands that arrive on the operand buses
  | unop
  | push (nbits : Nat) (bits : Nat)
  | pop (nbits : Nat)
  | rem
  | peek (nbits : Nat)
  | scan
  -- the arm rows of SCAN, selected by `mode` (41_scanner.md R82 to R86)
  | scanScanning
  | scanAwaitingSize
  | scanAwaitingShortLength
  | scanAwaitingExtendedLength
  | scanAwaitingDirOffset
  | upd (nib : Nibble)
  | final
  | size
  -- the reserved selects (R61)
  | reserved9
  | reservedA
  | reservedB
  | reservedC
  | reservedD
  | reservedE
  | reservedF
  -- prologue codes of the object stream (R55, R57)
  | pSize0
  | pSize1
  | pSize2
  | pSize3
  | pSize4
  | pSize5
  | pSize6
  | pSize7
  | pSize8
  | pAscic0
  | pAscic1
  | pAscic2
  | pDir
  | pFix0
  | pFix1
  | pFix2
  | pFix3
  | pFix4
  | pFix5
  | pFix6
  | pFix7
  | pFix8
  | pDefault (code : Field20)
deriving DecidableEq, Repr

/-- The name of a row of the prologue table, or of its default (R55, R56). -/
inductive PrologueName
  | size (i : Fin 9)
  | ascic (i : Fin 3)
  | dir
  | fix (i : Fin 9)
  | default
deriving DecidableEq, Repr

/-- The operand buses that stand beside a micro-operation select (R60): `nbits` of `NBW` bits and `bits` of `CAP`
bits, as numbers that `OperandBus.Fits` bounds. A select that has no operand of a name
leaves that bus unread. -/
structure OperandBus where
  nbits : Nat
  bits  : Nat
  nib   : Nibble
deriving DecidableEq, Repr

/-- One item at the CORE's input: a 10-bit command word from the host (R59), or a micro-operation select with
its operand buses, issued by a test bench to a sub-block on its own (R60, 40_bit_buffer.md R78). -/
inductive PortWord
  | command (word : BitVec 10)
  | micro (select : BitVec 4) (bus : OperandBus)
deriving DecidableEq, Repr

/-- Whether a port item is a host command, the only kind that crosses the assembled CORE's boundary (R61). -/
def PortWord.isCommand : PortWord → Bool
  | .command _ => true
  | .micro _ _ => false

/-- What an operation's bits are: an item at the port, or a 20-bit prologue in the object stream. -/
inductive Encoding
  | port (word : PortWord)
  | prologue (code : Field20)
deriving DecidableEq, Repr

/-- The rows of the prologue table and its default (R55 to R57). -/
def Instr.isPrologue : Instr → Bool
  | .pSize0 | .pSize1 | .pSize2 | .pSize3 | .pSize4 | .pSize5 | .pSize6 | .pSize7 | .pSize8
  | .pAscic0 | .pAscic1 | .pAscic2 | .pDir
  | .pFix0 | .pFix1 | .pFix2 | .pFix3 | .pFix4 | .pFix5 | .pFix6 | .pFix7 | .pFix8 | .pDefault _ => true
  | .nop | .byte _ | .eos | .reset
  | .unop | .push _ _ | .pop _ | .rem | .peek _ | .scan | .scanScanning | .scanAwaitingSize
  | .scanAwaitingShortLength | .scanAwaitingExtendedLength | .scanAwaitingDirOffset | .upd _ | .final | .size
  | .reserved9 | .reservedA | .reservedB | .reservedC | .reservedD | .reservedE | .reservedF => false

/-- The mode a SCAN arm row is for, and `none` for every other row (the "condition" of the arm rows). -/
def Instr.armMode : Instr → Option Mode
  | .scanScanning => some .scanning
  | .scanAwaitingSize => some .awaitingSize
  | .scanAwaitingShortLength => some .awaitingShortLength
  | .scanAwaitingExtendedLength => some .awaitingExtendedLength
  | .scanAwaitingDirOffset => some .awaitingDirOffset
  | .nop | .byte _ | .eos | .reset
  | .unop | .push _ _ | .pop _ | .rem | .peek _ | .scan | .upd _ | .final | .size
  | .reserved9 | .reservedA | .reservedB | .reservedC | .reservedD | .reservedE | .reservedF
  | .pSize0 | .pSize1 | .pSize2 | .pSize3 | .pSize4 | .pSize5 | .pSize6 | .pSize7 | .pSize8
  | .pAscic0 | .pAscic1 | .pAscic2 | .pDir
  | .pFix0 | .pFix1 | .pFix2 | .pFix3 | .pFix4 | .pFix5 | .pFix6 | .pFix7 | .pFix8 | .pDefault _ => none

end Sys2Proof
end

