-- ==== Sys2Proof/WellFormed.lean ====
section
/-! DEFINITION. Which terms of `Instr` name an operation of the CORE under given parameters: an `nbits` operand is
below `2^NBW` and a `bits` operand below `2^CAP` (00_scope.md R4, 40_bit_buffer.md R70), and the default row is used
only for a code the table does not hold (30_encoding.md R56; its row in spec/opcode_table.json says "applies only when
no other P row matches"). The other operand widths are in the types. -/

namespace Sys2Proof

/-- What the buses of a CORE with these parameters can carry (R60). -/
abbrev OperandBus.Fits (p : Params) (bus : OperandBus) : Prop := bus.nbits < 2 ^ p.nbw ∧ bus.bits < 2 ^ p.cap

/-- `P_DEFAULT` stands for "any 20-bit value not matched by another P row". -/
def WellFormed (p : Params) : Instr → Bool
  | .push nbits bits => decide (nbits < 2 ^ p.nbw) && decide (bits < 2 ^ p.cap)
  | .pop nbits => decide (nbits < 2 ^ p.nbw)
  | .peek nbits => decide (nbits < 2 ^ p.nbw)
  | .pDefault code => !p.table.codes.contains code
  | .nop | .byte _ | .eos | .reset
  | .unop | .rem | .scan | .scanScanning | .scanAwaitingSize
  | .scanAwaitingShortLength | .scanAwaitingExtendedLength | .scanAwaitingDirOffset | .upd _ | .final | .size
  | .reserved9 | .reservedA | .reservedB | .reservedC | .reservedD | .reservedE | .reservedF
  | .pSize0 | .pSize1 | .pSize2 | .pSize3 | .pSize4 | .pSize5 | .pSize6 | .pSize7 | .pSize8
  | .pAscic0 | .pAscic1 | .pAscic2 | .pDir
  | .pFix0 | .pFix1 | .pFix2 | .pFix3 | .pFix4 | .pFix5 | .pFix6 | .pFix7 | .pFix8 => true

end Sys2Proof
end

