-- ==== Sys2Proof/Decode.lean ====
section
/-! DEFINITION. From bits to operations and back: the command word (30_encoding.md R59), the micro-operation
select (R60, R61), the prologue table (R55 to R57), bytes as the opcode table numbers them, and the encoder
written from the same tables. Decoding is total; what it rejects, it rejects by name. -/

namespace Sys2Proof

/-- `PT_REF` (R57). The first 20 codes and their classes are the spec's candidate, "from general knowledge, not
in source" (PRESUMED, log entry 4). `P_FIX[7]` and `P_FIX[8]` are OPEN in the spec: the two rows here are
placeholders that meet R55 and lie outside every code the spec names (DESIGN CHOICE, log entry 3). -/
def referenceTable : PrologueTable where
  size := #v[0x029E8, 0x02A0A, 0x02A2C, 0x02A4E, 0x02B1E, 0x02B40, 0x02B62, 0x02B88, 0x02DCC]
  ascic := #v[0x02AFC, 0x02E48, 0x02E6D]
  dir := 0x02A96
  fix := #v[⟨0x029BF, .n7⟩, ⟨0x02911, .n10⟩, ⟨0x02E92, .n11⟩, ⟨0x02933, .n21⟩, ⟨0x02955, .n26⟩, ⟨0x02977, .n37⟩,
    ⟨0x0299D, .n47⟩, ⟨0xFFFFD, .n7⟩, ⟨0xFFFFE, .n10⟩]

/-- The parameters `State.reset` carries: `CAP = 64` (R4) and `PT_REF`. -/
def referenceParams : Params := { cap := Config.cap, table := referenceTable }

/-! ### The prologue table -/

/-- The nibble count a `FixSkip` names. -/
def FixSkip.nibbles : FixSkip → Field20
  | .n7 => 7
  | .n10 => 10
  | .n11 => 11
  | .n21 => 21
  | .n26 => 26
  | .n37 => 37
  | .n47 => 47

/-- The instruction that stands for a row of the prologue table; the default row keeps the code it was met
with. -/
def PrologueName.instr (code : Field20) : PrologueName → Instr
  | .size 0 => .pSize0
  | .size 1 => .pSize1
  | .size 2 => .pSize2
  | .size 3 => .pSize3
  | .size 4 => .pSize4
  | .size 5 => .pSize5
  | .size 6 => .pSize6
  | .size 7 => .pSize7
  | .size 8 => .pSize8
  | .ascic 0 => .pAscic0
  | .ascic 1 => .pAscic1
  | .ascic 2 => .pAscic2
  | .dir => .pDir
  | .fix 0 => .pFix0
  | .fix 1 => .pFix1
  | .fix 2 => .pFix2
  | .fix 3 => .pFix3
  | .fix 4 => .pFix4
  | .fix 5 => .pFix5
  | .fix 6 => .pFix6
  | .fix 7 => .pFix7
  | .fix 8 => .pFix8
  | .default => .pDefault code

/-- The table as a list of rows, each code with the row it names (R55). -/
def prologueRows (pt : PrologueTable) : List (Field20 × PrologueName) :=
  [(pt.size[0], .size 0), (pt.size[1], .size 1), (pt.size[2], .size 2), (pt.size[3], .size 3),
    (pt.size[4], .size 4), (pt.size[5], .size 5), (pt.size[6], .size 6), (pt.size[7], .size 7),
    (pt.size[8], .size 8)] ++
  [(pt.ascic[0], .ascic 0), (pt.ascic[1], .ascic 1), (pt.ascic[2], .ascic 2)] ++
  [(pt.dir, .dir)] ++
  [(pt.fix[0].code, .fix 0), (pt.fix[1].code, .fix 1), (pt.fix[2].code, .fix 2), (pt.fix[3].code, .fix 3),
    (pt.fix[4].code, .fix 4), (pt.fix[5].code, .fix 5), (pt.fix[6].code, .fix 6), (pt.fix[7].code, .fix 7),
    (pt.fix[8].code, .fix 8)]

/-- R56: the row whose code is `c`, all 20 bits taking part; a code of no row is the default, "an explicit,
single, visible branch" (41_scanner.md R89). -/
def classify (pt : PrologueTable) (c : Field20) : PrologueName :=
  match (prologueRows pt).find? (fun r => r.1 == c) with
  | some r => r.2
  | none => .default

/-- The operation a 20-bit prologue names. Every value names one (R56, R58). -/
def decodePrologue (pt : PrologueTable) (c : Field20) : Instr := (classify pt c).instr c

/-! ### Commands and micro-operations -/

/-- R59: bits 9:8 are `cmd`, bits 7:0 are `data`, which only BYTE reads. All 1024 words are legal. -/
def decodeCommand (w : BitVec 10) : Instr :=
  match (w.extractLsb' 8 2).toNat with
  | 0 => .nop
  | 1 => .byte (w.extractLsb' 0 8)
  | 2 => .eos
  | _ => .reset

/-- R60, R61: the 4-bit select with its operand buses. Selects 9 to 15 are reserved and decode to operations of
their own, which the machine refuses; none is UNOP. -/
def decodeMicro (select : BitVec 4) (bus : OperandBus) : Instr :=
  match select.toNat with
  | 0 => .unop
  | 1 => .push bus.nbits bus.bits
  | 2 => .pop bus.nbits
  | 3 => .rem
  | 4 => .peek bus.nbits
  | 5 => .scan
  | 6 => .upd bus.nib
  | 7 => .final
  | 8 => .size
  | 9 => .reserved9
  | 10 => .reservedA
  | 11 => .reservedB
  | 12 => .reservedC
  | 13 => .reservedD
  | 14 => .reservedE
  | _ => .reservedF

/-- An item at the port, decoded by its format. -/
def decodePort : PortWord → Instr
  | .command w => decodeCommand w
  | .micro sel bus => decodeMicro sel bus

/-- The decoder: every encoding names one operation. -/
def decode (pt : PrologueTable) : Encoding → Instr
  | .port w => decodePort w
  | .prologue c => decodePrologue pt c

/-- The arm row of SCAN for a mode. -/
def Mode.arm : Mode → Instr
  | .scanning => .scanScanning
  | .awaitingSize => .scanAwaitingSize
  | .awaitingShortLength => .scanAwaitingShortLength
  | .awaitingExtendedLength => .scanAwaitingExtendedLength
  | .awaitingDirOffset => .scanAwaitingDirOffset

/-- "SCAN decodes further on the `mode` register" (R60): the arm row of the opcode table that applies, by the
row's condition `mode == m and skip == 0`. Every other operation is its own row. -/
def selectArm (m : Mode) (skip : Field20) (i : Instr) : Instr :=
  if i = .scan ∧ skip = 0 then m.arm else i

/-! ### Encoding -/

/-- Operand buses with nothing on them. -/
def OperandBus.idle : OperandBus := { nbits := 0, bits := 0, nib := 0 }

/-- A command word from its two fields (R59). -/
def commandWord (cmd : BitVec 2) (data : Byte) : BitVec 10 := cmd ++ data

/-- A micro-operation without operands. -/
def microWord (select : BitVec 4) : Encoding := .port (.micro select OperandBus.idle)

/-- The bits of an operation, from R59, R60 and the table's codes. The arm rows of SCAN have SCAN's select; the
ignored `data` field of NOP, EOS and RESET is written as 0 (95_test_vectors.md, "Conventions"). -/
def encode (pt : PrologueTable) : Instr → Encoding
  | .nop => .port (.command (commandWord 0 0))
  | .byte b => .port (.command (commandWord 1 b))
  | .eos => .port (.command (commandWord 2 0))
  | .reset => .port (.command (commandWord 3 0))
  | .unop => microWord 0
  | .push nbits bits => .port (.micro 1 { OperandBus.idle with nbits := nbits, bits := bits })
  | .pop nbits => .port (.micro 2 { OperandBus.idle with nbits := nbits })
  | .rem => microWord 3
  | .peek nbits => .port (.micro 4 { OperandBus.idle with nbits := nbits })
  | .scan => microWord 5
  | .scanScanning => microWord 5
  | .scanAwaitingSize => microWord 5
  | .scanAwaitingShortLength => microWord 5
  | .scanAwaitingExtendedLength => microWord 5
  | .scanAwaitingDirOffset => microWord 5
  | .upd nib => .port (.micro 6 { OperandBus.idle with nib := nib })
  | .final => microWord 7
  | .size => microWord 8
  | .reserved9 => microWord 9
  | .reservedA => microWord 10
  | .reservedB => microWord 11
  | .reservedC => microWord 12
  | .reservedD => microWord 13
  | .reservedE => microWord 14
  | .reservedF => microWord 15
  | .pSize0 => .prologue pt.size[0]
  | .pSize1 => .prologue pt.size[1]
  | .pSize2 => .prologue pt.size[2]
  | .pSize3 => .prologue pt.size[3]
  | .pSize4 => .prologue pt.size[4]
  | .pSize5 => .prologue pt.size[5]
  | .pSize6 => .prologue pt.size[6]
  | .pSize7 => .prologue pt.size[7]
  | .pSize8 => .prologue pt.size[8]
  | .pAscic0 => .prologue pt.ascic[0]
  | .pAscic1 => .prologue pt.ascic[1]
  | .pAscic2 => .prologue pt.ascic[2]
  | .pDir => .prologue pt.dir
  | .pFix0 => .prologue pt.fix[0].code
  | .pFix1 => .prologue pt.fix[1].code
  | .pFix2 => .prologue pt.fix[2].code
  | .pFix3 => .prologue pt.fix[3].code
  | .pFix4 => .prologue pt.fix[4].code
  | .pFix5 => .prologue pt.fix[5].code
  | .pFix6 => .prologue pt.fix[6].code
  | .pFix7 => .prologue pt.fix[7].code
  | .pFix8 => .prologue pt.fix[8].code
  | .pDefault code => .prologue code

/-! ### Bytes, as spec/opcode_table.json numbers the bits

A row of the table is a number with bit 0 its least significant bit. In whole bytes a format-U row takes one
byte, a format-C row two and a prologue row three, so the length tells the format. The byte order is the
model's (DESIGN CHOICE, log entry 9): the spec stores no operation in bytes. -/

/-- Why a byte sequence is no operation. -/
inductive DecodeReject
  /-- Not one, two or three bytes. -/
  | length (bytes : Nat)
  /-- A bit is set above the 4, 10 or 20 bits of the format (`width`). -/
  | strayBits (width : Nat)
deriving DecidableEq, Repr

/-- The number a byte sequence stands for, first byte least significant. -/
def numberOfBytes : List Byte → Nat
  | [] => 0
  | b :: bs => b.toNat + 256 * numberOfBytes bs

/-- `n` bytes of a number, least significant first. -/
def bytesOfNumber : Nat → Nat → List Byte
  | 0, _ => []
  | n + 1, w => BitVec.ofNat 8 w :: bytesOfNumber n (w / 256)

/-- The format of a byte sequence by its length, with the operand buses of a micro-operation at zero. -/
def encodingOfBytes (bs : List Byte) : Except DecodeReject Encoding :=
  let w := numberOfBytes bs
  match bs.length with
  | 1 => if w < 2 ^ 4 then .ok (microWord (BitVec.ofNat 4 w)) else .error (.strayBits 4)
  | 2 => if w < 2 ^ 10 then .ok (.port (.command (BitVec.ofNat 10 w))) else .error (.strayBits 10)
  | 3 => if w < 2 ^ 20 then .ok (.prologue (BitVec.ofNat 20 w)) else .error (.strayBits 20)
  | n => .error (.length n)

/-- The decoder on bytes: total, rejecting by name. -/
def decodeBytes (pt : PrologueTable) (bs : List Byte) : Except DecodeReject Instr :=
  match encodingOfBytes bs with
  | .ok e => .ok (decode pt e)
  | .error r => .error r

/-- The encoding of a table word of `nbits` bits, `none` where the decoder refuses it. -/
def tableEncoding (nbits w : Nat) : Option Encoding :=
  if w < 2 ^ nbits then
    match encodingOfBytes (bytesOfNumber ((nbits + 7) / 8) w) with
    | .ok e => some e
    | .error _ => none
  else none

/-- The operation the decoder reads from a table word, prologues by `PT_REF`. -/
def decodeTableWord (nbits w : Nat) : Option Instr :=
  (tableEncoding nbits w).map (decode referenceTable)

end Sys2Proof
end

