-- ==== Sys2Proof/Machine/State.lean ====
section
/-! DEFINITION. The state of the CORE: the nine registers of 10_state.md R10, grouped by the sub-block that owns
them, and beside them three things the model carries for its own account: the parameters of the run (log entries
2 and 3), what came back from the last micro-operation issued on its own (log entry 5), and the inputs that have
not been executed yet (log entry 6). There is no memory and no program counter (R21, R24). -/

namespace Sys2Proof.Machine

/-- The bit buffer (40_bit_buffer.md R70). The registers are `CAP` and `FBW` bits wide; `BufferSound` says they stay
within that (log entry 2). -/
structure BitBuffer where
  /-- R11: bit `i`, for `i < fillBits`, is the `i`-th oldest bit; bit 0 leaves next. -/
  value    : Nat
  /-- R12: how many low bits of `value` are held. -/
  fillBits : Nat
deriving DecidableEq, Repr

/-- The object prologue scanner (41_scanner.md R80). -/
structure Scanner where
  /-- R13: how the next field is to be read. -/
  mode    : Mode
  /-- R14: nibbles still to drain before the next inspection. -/
  skip    : Field20
  /-- R19: sticky, set by the directory prologue, read by no rule. -/
  dirFlag : Bool
deriving DecidableEq, Repr

/-- The nibble checksum accumulator (42_checksum.md R95). -/
structure Checksum where
  /-- R15. -/
  crc         : BitVec 16
  /-- R16: a natural number, never wraps. -/
  nibbleCount : Nat
deriving DecidableEq, Repr

/-- The errors the CORE can raise (60_exceptions.md R120). They are states of the machine, not ends of the
model: the machine goes on with `err` set. -/
inductive ErrorKind
  | bufferOverflow | bufferUnderflow | formatError
deriving DecidableEq, Repr

/-- What came back from the last micro-operation issued on its own (30_encoding.md R60 "Results come back on
`rdata`, `rcount` or the status outputs"; 40_bit_buffer.md R78 for the two-way outcome of PUSH and POP).
DESIGN CHOICE, log entry 5. -/
inductive MicroResult
  /-- Nothing since reset. -/
  | none
  /-- A PUSH that succeeded. -/
  | ok
  /-- POP or PEEK. -/
  | rdata (v : Nat)
  /-- REM. -/
  | rcount (n : Nat)
  /-- FINAL. -/
  | checksum (v : BitVec 16)
  /-- SIZE. -/
  | size (byteSize : Nat) (hasHalfByte : Bool)
  /-- A PUSH or POP that raised: the error, and no data. -/
  | error (e : ErrorKind)
deriving DecidableEq, Repr

/-- The whole machine. -/
structure State where
  buffer   : BitBuffer
  scanner  : Scanner
  checksum : Checksum
  /-- R17, R63: the first error of the run, `none` is code 0. -/
  err      : Option ErrorKind
  /-- R18: the run ended in success. -/
  done     : Bool
  /-- The parameters of the run; no operation writes them (R142 item 1). -/
  params   : Params
  /-- The model's own: log entry 5. -/
  result   : MicroResult
  /-- The model's own: what the host (or a test bench) has issued and the CORE has not executed, oldest first
  (log entry 6). -/
  port     : List PortWord
deriving DecidableEq, Repr

/-- No operation of the CORE stops the machine with a fault: every error the spec names (R120) is recorded in
`err` and the machine goes on. So the type has no constructor. -/
inductive Fault
deriving DecidableEq, Repr

/-- Why a step has no meaning. -/
inductive Refusal
  /-- An operation that has no meaning yet, raised by an arm of `exec` only. Safe: nothing can be proved of a
  run through it. -/
  | notModelled (mnemonic : String)
  /-- A reserved micro-operation select, 9 to 15, raised by the seven `execReserved` meanings: "a model of a
  sub-block driven on its own refuses them" (R61). Safe, and no assembled CORE meets one. -/
  | reservedSelect (select : BitVec 4)
deriving DecidableEq, Repr

/-- What a step of this machine answers. -/
abbrev Result := Host.Outcome State Fault Refusal

/-- The state right after reset under given parameters (R28, R140): every register at the Reset column of R10. -/
def State.resetWith (p : Params) : State where
  buffer := { value := 0, fillBits := 0 }
  scanner := { mode := .scanning, skip := 0, dirFlag := false }
  checksum := { crc := 0, nibbleCount := 0 }
  err := none
  done := false
  params := p
  result := .none
  port := []

/-- The machine right after reset, with `CAP = 64` and `PT_REF` and nothing at its input. -/
def State.reset : State := State.resetWith referenceParams

end Sys2Proof.Machine
end

