-- ==== Sys2Proof/Machine/Flags.lean ====
section
/-! DEFINITION. Status values computed from registers: the gate of the commands, the size report and the codes
of enumerated state (10_state.md R22, 30_encoding.md R62, R63). The CORE has no condition codes; no arithmetic
micro-operation writes a flag (R22). -/

namespace Sys2Proof.Machine

/-- R112: the run is over and every command but RESET changes nothing (`err != 0` or `done == 1`). -/
def State.ended (s : State) : Bool := s.err.isSome || s.done

/-- R99: `byteSize = nibbleCount div 2`. -/
def Checksum.byteSize (c : Checksum) : Nat := c.nibbleCount / 2

/-- R99, R22: `hasHalfByte = nibbleCount mod 2`; no register of its own. -/
def Checksum.hasHalfByte (c : Checksum) : Bool := c.nibbleCount % 2 == 1

/-- R63: the 2-bit code of `err`. -/
def errCode : Option ErrorKind → BitVec 2
  | none => 0
  | some .bufferOverflow => 1
  | some .bufferUnderflow => 2
  | some .formatError => 3

/-- R62: the 3-bit code of `mode`, in the document's order; 5 to 7 are of no mode. -/
def modeCode : Mode → BitVec 3
  | .scanning => 0
  | .awaitingSize => 1
  | .awaitingShortLength => 2
  | .awaitingExtendedLength => 3
  | .awaitingDirOffset => 4

end Sys2Proof.Machine
end

