-- ==== Sys2Proof/Machine/Ops.lean ====
section
/-! DEFINITION. The shared operations: the register writes, the bit buffer's PUSH, POP, REM and PEEK as functions
with the two-way outcome of 40_bit_buffer.md R78, the checksum recurrence of 42_checksum.md R96, and raising an
error (60_exceptions.md R121). There is no return from an error but RESET (R129). -/

namespace Sys2Proof.Machine

/-! ### Register writes -/

def State.setBuffer (s : State) (b : BitBuffer) : State := { s with buffer := b }
def State.setScanner (s : State) (c : Scanner) : State := { s with scanner := c }
def State.setChecksum (s : State) (c : Checksum) : State := { s with checksum := c }
def State.setErr (s : State) (e : Option ErrorKind) : State := { s with err := e }
def State.setDone (s : State) (d : Bool) : State := { s with done := d }
def State.setResult (s : State) (r : MicroResult) : State := { s with result := r }
def State.setPort (s : State) (p : List PortWord) : State := { s with port := p }

/-! ### The bit buffer -/

/-- `mask(n) = 2^n - 1` (00_scope.md R5), exact, so `mask 0` is 0. -/
def mask (n : Nat) : Nat := 2 ^ n - 1

/-- REM (R73). -/
def BitBuffer.rem (b : BitBuffer) : Nat := b.fillBits

/-- PEEK (R74): `value & mask(nbits)`, whatever the fill level; never raises. -/
def BitBuffer.peek (nbits : Nat) (b : BitBuffer) : Nat := b.value &&& mask nbits

/-- PUSH (R71). The comparison is on natural numbers and comes before any write (R154). -/
def BitBuffer.push (cap nbits bits : Nat) (b : BitBuffer) : Except ErrorKind BitBuffer :=
  if cap < b.fillBits + nbits then .error .bufferOverflow
  else .ok
    { value := b.value ||| ((bits &&& mask nbits) <<< b.fillBits)
      fillBits := b.fillBits + nbits }

/-- POP (R72): the bits removed and the buffer without them, or the error and no data. -/
def BitBuffer.pop (nbits : Nat) (b : BitBuffer) : Except ErrorKind (Nat × BitBuffer) :=
  if b.fillBits < nbits then .error .bufferUnderflow
  else .ok
    (b.value &&& mask nbits,
      { value := b.value >>> nbits, fillBits := b.fillBits - nbits })

/-! ### The checksum -/

/-- R96: `(crc >> 4) XOR (((crc XOR nib) & 0xF) * 0x1081)`. The product fits 16 bits (R97). -/
def crcStep (crc : BitVec 16) (nib : Nibble) : BitVec 16 :=
  (crc >>> 4) ^^^ (((crc ^^^ nib.setWidth 16) &&& 0xF) * 0x1081)

/-- UPD on the accumulator (R96): fold the nibble in and count it. -/
def Checksum.update (nib : Nibble) (c : Checksum) : Checksum :=
  { crc := crcStep c.crc nib, nibbleCount := c.nibbleCount + 1 }

/-! ### Raising an error -/

/-- `raise E`, inside a command (R121): `err` is written and nothing else. Commands are gated by `err == 0`, so it
is the first error of the run (R17). There is no handler: nothing is saved and control goes nowhere (R127). -/
def raise (e : ErrorKind) (s : State) : State := s.setErr (some e)

end Sys2Proof.Machine
end

