-- ==== Sys2Proof/Machine/PrologueTable.lean ====
section
/-! DEFINITION. What each row of the prologue table tells the scanner: the triple `(mode, skip, dir)` of
30_encoding.md R55, and the default of R56. -/

namespace Sys2Proof.Machine

/-- The triple a prologue maps to. -/
structure Entry where
  mode : Mode
  skip : Field20
  dir  : Bool
deriving DecidableEq, Repr

/-- R55 item 2: "Nine codes map to AwaitingSize with skip=5". -/
def sizeEntry : Entry := { mode := .awaitingSize, skip := 5, dir := false }

/-- R55 item 3: "three codes map to AwaitingShortLength with skip=5". -/
def ascicEntry : Entry := { mode := .awaitingShortLength, skip := 5, dir := false }

/-- R55 item 4: the directory code, skip 8 (91_not_in_source.md N3), and the flag. -/
def dirEntry : Entry := { mode := .awaitingDirOffset, skip := 8, dir := true }

/-- R55 item 5: a literal skip, "while remaining in Scanning mode". -/
def fixEntry (k : FixSkip) : Entry := { mode := .scanning, skip := k.nibbles, dir := false }

/-- R56: "any code not in the table defaults to skip=5, mode remains Scanning". -/
def defaultEntry : Entry := { mode := .scanning, skip := 5, dir := false }

/-- The triple of a row. -/
def entryOf (pt : PrologueTable) : PrologueName → Entry
  | .size _ => sizeEntry
  | .ascic _ => ascicEntry
  | .dir => dirEntry
  | .fix i => fixEntry pt.fix[i].skip
  | .default => defaultEntry

/-- `lookup(c)` (R56). -/
def lookup (pt : PrologueTable) (c : Field20) : Entry := entryOf pt (classify pt c)

end Sys2Proof.Machine
end

