-- ==== Sys2Proof/Machine/Operands.lean ====
section
/-! DEFINITION. Operands: the fields the scanner peeks at the low end of the buffer (30_encoding.md R50), and
how each becomes a `skip` value (R52); the operand BYTE gives to PUSH and the nibble a POP of 4 gives to UPD. -/

namespace Sys2Proof.Machine

/-- The 20-bit field at the low end of the buffer: prologue, size or offset. -/
def peek20 (b : BitBuffer) : Field20 := BitVec.ofNat 20 (b.peek 20)

/-- The 8-bit length field at the low end of the buffer. -/
def peek8 (b : BitBuffer) : Byte := BitVec.ofNat 8 (b.peek 8)

/-- R52, `AwaitingShortLength`: `skip = 2 + 2*len`. -/
def shortLengthSkip (len : Byte) : Field20 := BitVec.ofNat 20 (2 + 2 * len.toNat)

/-- R52, `AwaitingExtendedLength`: `skip = 4 + 2*len`. -/
def extendedLengthSkip (len : Byte) : Field20 := BitVec.ofNat 20 (4 + 2 * len.toNat)

/-- The `bits` operand of the PUSH in BYTE: the byte, bit 0 lowest (20_memory.md R31). -/
def byteOperand (b : Byte) : Nat := b.toNat

/-- The operand of the UPD in the drain: `rdata[3:0]` of a POP of 4 (30_encoding.md R65, DRAIN1). -/
def nibbleOf (rdata : Nat) : Nibble := BitVec.ofNat 4 rdata

end Sys2Proof.Machine
end

