-- ==== Sys2Proof/Machine/BufferUnit.lean ====
section
/-! DEFINITION. The micro-operations of the bit buffer issued on their own: UNOP, PUSH, POP, REM, PEEK
(30_encoding.md R61, 40_bit_buffer.md R71 to R74). A PUSH or POP that raises answers its error and the old state:
there is no `err` register at this level (R78, 92_eei_decisions.md D24). Inside BYTE the stream decoder turns the
same outcome into `err` (43_stream_decoder.md R107). -/

namespace Sys2Proof.Machine

/-- UNOP (R61). -/
def execUnop (s : State) : Result := .next s

/-- PUSH (R71). -/
def execPush (nbits bits : Nat) (s : State) : Result :=
  match s.buffer.push s.params.cap nbits bits with
  | .ok b => .next ((s.setBuffer b).setResult .ok)
  | .error e => .next (s.setResult (.error e))

/-- POP (R72). -/
def execPop (nbits : Nat) (s : State) : Result :=
  match s.buffer.pop nbits with
  | .ok (rdata, b) => .next ((s.setBuffer b).setResult (.rdata rdata))
  | .error e => .next (s.setResult (.error e))

/-- REM (R73). -/
def execRem (s : State) : Result := .next (s.setResult (.rcount s.buffer.fillBits))

/-- PEEK (R74). -/
def execPeek (nbits : Nat) (s : State) : Result :=
  .next (s.setResult (.rdata (s.buffer.peek nbits)))

end Sys2Proof.Machine
end

