-- ==== Sys2Proof/Machine/ChecksumUnit.lean ====
section
/-! DEFINITION. The micro-operations of the nibble checksum accumulator issued on their own: UPD, FINAL, SIZE
(42_checksum.md R96, R98, R99). None can raise. -/

namespace Sys2Proof.Machine

/-- UPD (R96). -/
def execUpd (nib : Nibble) (s : State) : Result := .next (s.setChecksum (s.checksum.update nib))

/-- FINAL (R98). -/
def execFinal (s : State) : Result := .next (s.setResult (.checksum s.checksum.crc))

/-- SIZE (R99). -/
def execSize (s : State) : Result :=
  .next (s.setResult (.size s.checksum.byteSize s.checksum.hasHalfByte))

end Sys2Proof.Machine
end

