-- ==== Sys2Proof/Machine/Scanner.lean ====
section
/-! DEFINITION. The object prologue scanner: SCAN and its five arms (41_scanner.md R81 to R87). None of them
changes the buffer or the checksum, and none raises (R80, R81). -/

namespace Sys2Proof.Machine

/-! ### Shared -/

/-- The writes of a classified prologue (R82): `mode` and `skip` from the triple, `dirFlag` only ever set. -/
def applyEntry (e : Entry) (s : State) : State :=
  s.setScanner { mode := e.mode, skip := e.skip, dirFlag := s.scanner.dirFlag || e.dir }

/-- The writes of the other arms: `mode` and `skip`. -/
def setPhase (m : Mode) (k : Field20) (s : State) : State :=
  s.setScanner { s.scanner with mode := m, skip := k }

/-- R82: classify a prologue, if 20 bits are buffered. -/
def armScanning (s : State) : State :=
  if 20 ≤ s.buffer.rem then applyEntry (lookup s.params.table (peek20 s.buffer)) s else s

/-- R83: a size field, if 20 bits are buffered. -/
def armAwaitingSize (s : State) : State :=
  if 20 ≤ s.buffer.rem then setPhase .scanning (peek20 s.buffer) s else s

/-- R84: a short length, if 8 bits are buffered. -/
def armAwaitingShortLength (s : State) : State :=
  if 8 ≤ s.buffer.rem then setPhase .scanning (shortLengthSkip (peek8 s.buffer)) s else s

/-- R85: an extended length, if 8 bits are buffered. -/
def armAwaitingExtendedLength (s : State) : State :=
  if 8 ≤ s.buffer.rem then setPhase .scanning (extendedLengthSkip (peek8 s.buffer)) s else s

/-- R86: a directory offset, if 20 bits are buffered. -/
def armAwaitingDirOffset (s : State) : State :=
  if 20 ≤ s.buffer.rem then setPhase .awaitingExtendedLength (peek20 s.buffer) s else s

/-- SCAN (R81): nothing while `skip != 0`, else the arm of the mode, once. -/
def scan (s : State) : State :=
  if s.scanner.skip ≠ 0 then s
  else
    match s.scanner.mode with
    | .scanning => armScanning s
    | .awaitingSize => armAwaitingSize s
    | .awaitingShortLength => armAwaitingShortLength s
    | .awaitingExtendedLength => armAwaitingExtendedLength s
    | .awaitingDirOffset => armAwaitingDirOffset s

/-- An arm row of the opcode table, under the row's condition `mode == m and skip == 0`; where the condition
fails this arm is not the one SCAN takes and changes nothing (DESIGN CHOICE, log entry 10). -/
def whenSelected (m : Mode) (arm : State → State) (s : State) : State :=
  if s.scanner.skip = 0 ∧ s.scanner.mode = m then arm s else s

/-! ### Meanings -/

/-- SCAN (R81). -/
def execScan (s : State) : Result := .next (scan s)

/-- SCAN.Scanning (R82). -/
def execScanScanning (s : State) : Result := .next (whenSelected .scanning armScanning s)

/-- SCAN.AwaitingSize (R83). -/
def execScanAwaitingSize (s : State) : Result := .next (whenSelected .awaitingSize armAwaitingSize s)

/-- SCAN.AwaitingShortLength (R84). -/
def execScanAwaitingShortLength (s : State) : Result :=
  .next (whenSelected .awaitingShortLength armAwaitingShortLength s)

/-- SCAN.AwaitingExtendedLength (R85). -/
def execScanAwaitingExtendedLength (s : State) : Result :=
  .next (whenSelected .awaitingExtendedLength armAwaitingExtendedLength s)

/-- SCAN.AwaitingDirOffset (R86). -/
def execScanAwaitingDirOffset (s : State) : Result :=
  .next (whenSelected .awaitingDirOffset armAwaitingDirOffset s)

end Sys2Proof.Machine
end

