-- ==== Sys2Proof/Machine/Prologue.lean ====
section
/-! DEFINITION. The prologue codes of the object stream as operations (30_encoding.md R51, R55 to R57): what the
scanner does when it finds the code at the low end of the buffer (41_scanner.md R82). A prologue is met by SCAN
in mode `Scanning` with `skip == 0` and 20 bits buffered, and nowhere else (R50); under any other state the code
is not inspected and nothing changes (DESIGN CHOICE, log entry 11). -/

namespace Sys2Proof.Machine

/-- A prologue is due: the arm of R82 would inspect one. -/
def prologueDue (s : State) : Bool :=
  s.scanner.skip == 0 && s.scanner.mode == .scanning && decide (20 ≤ s.buffer.rem)

/-- The effect of a prologue whose triple is `e`, where one is due. -/
def takePrologue (e : Entry) (s : State) : Result :=
  .next (if prologueDue s then applyEntry e s else s)

/-- P_SIZE[0] (R55 item 2): a size field follows. -/
def execPSize0 (s : State) : Result := takePrologue sizeEntry s

/-- P_SIZE[1] (R55 item 2): a size field follows. -/
def execPSize1 (s : State) : Result := takePrologue sizeEntry s

/-- P_SIZE[2] (R55 item 2): a size field follows. -/
def execPSize2 (s : State) : Result := takePrologue sizeEntry s

/-- P_SIZE[3] (R55 item 2): a size field follows. -/
def execPSize3 (s : State) : Result := takePrologue sizeEntry s

/-- P_SIZE[4] (R55 item 2): a size field follows. -/
def execPSize4 (s : State) : Result := takePrologue sizeEntry s

/-- P_SIZE[5] (R55 item 2): a size field follows. -/
def execPSize5 (s : State) : Result := takePrologue sizeEntry s

/-- P_SIZE[6] (R55 item 2): a size field follows. -/
def execPSize6 (s : State) : Result := takePrologue sizeEntry s

/-- P_SIZE[7] (R55 item 2): a size field follows. -/
def execPSize7 (s : State) : Result := takePrologue sizeEntry s

/-- P_SIZE[8] (R55 item 2): a size field follows. -/
def execPSize8 (s : State) : Result := takePrologue sizeEntry s

/-- P_ASCIC[0] (R55 item 3): a short length follows. -/
def execPAscic0 (s : State) : Result := takePrologue ascicEntry s

/-- P_ASCIC[1] (R55 item 3): a short length follows. -/
def execPAscic1 (s : State) : Result := takePrologue ascicEntry s

/-- P_ASCIC[2] (R55 item 3): a short length follows. -/
def execPAscic2 (s : State) : Result := takePrologue ascicEntry s

/-- P_DIR (R55 item 4): a directory; sets `dirFlag`. -/
def execPDir (s : State) : Result := takePrologue dirEntry s

/-- P_FIX[0] (R55 item 5): skip `FIXSKIP[0]`; 7 in `PT_REF`. -/
def execPFix0 (s : State) : Result := takePrologue (fixEntry s.params.table.fix[0].skip) s

/-- P_FIX[1] (R55 item 5): skip `FIXSKIP[1]`; 10 in `PT_REF`. -/
def execPFix1 (s : State) : Result := takePrologue (fixEntry s.params.table.fix[1].skip) s

/-- P_FIX[2] (R55 item 5): skip `FIXSKIP[2]`; 11 in `PT_REF`. -/
def execPFix2 (s : State) : Result := takePrologue (fixEntry s.params.table.fix[2].skip) s

/-- P_FIX[3] (R55 item 5): skip `FIXSKIP[3]`; 21 in `PT_REF`. -/
def execPFix3 (s : State) : Result := takePrologue (fixEntry s.params.table.fix[3].skip) s

/-- P_FIX[4] (R55 item 5): skip `FIXSKIP[4]`; 26 in `PT_REF`. -/
def execPFix4 (s : State) : Result := takePrologue (fixEntry s.params.table.fix[4].skip) s

/-- P_FIX[5] (R55 item 5): skip `FIXSKIP[5]`; 37 in `PT_REF`. -/
def execPFix5 (s : State) : Result := takePrologue (fixEntry s.params.table.fix[5].skip) s

/-- P_FIX[6] (R55 item 5): skip `FIXSKIP[6]`; 47 in `PT_REF`. -/
def execPFix6 (s : State) : Result := takePrologue (fixEntry s.params.table.fix[6].skip) s

/-- P_FIX[7] (R55 item 5): skip `FIXSKIP[7]`; OPEN in the spec. -/
def execPFix7 (s : State) : Result := takePrologue (fixEntry s.params.table.fix[7].skip) s

/-- P_FIX[8] (R55 item 5): skip `FIXSKIP[8]`; OPEN in the spec. -/
def execPFix8 (s : State) : Result := takePrologue (fixEntry s.params.table.fix[8].skip) s

/-- P_DEFAULT (R56): any other code; the code itself takes no part in the effect. -/
def execPDefault (_code : Field20) (s : State) : Result := takePrologue defaultEntry s

end Sys2Proof.Machine
end

