-- ==== Sys2Proof/Machine/Reserved.lean ====
section
/-! DEFINITION. The reserved micro-operation selects 9 to 15 (30_encoding.md R61): "A model of a sub-block driven
on its own refuses them (gives them no meaning); it must not treat them as UNOP." -/

namespace Sys2Proof.Machine

/-- RESERVED_9 (R61). -/
def execReserved9 (_s : State) : Result := .refused (.reservedSelect 9)

/-- RESERVED_A (R61). -/
def execReservedA (_s : State) : Result := .refused (.reservedSelect 10)

/-- RESERVED_B (R61). -/
def execReservedB (_s : State) : Result := .refused (.reservedSelect 11)

/-- RESERVED_C (R61). -/
def execReservedC (_s : State) : Result := .refused (.reservedSelect 12)

/-- RESERVED_D (R61). -/
def execReservedD (_s : State) : Result := .refused (.reservedSelect 13)

/-- RESERVED_E (R61). -/
def execReservedE (_s : State) : Result := .refused (.reservedSelect 14)

/-- RESERVED_F (R61). -/
def execReservedF (_s : State) : Result := .refused (.reservedSelect 15)

end Sys2Proof.Machine
end

