-- ==== Sys2Proof/Machine/StreamDecoder.lean ====
section
/-! DEFINITION. The stream decoder's commands RESET, BYTE, EOS and NOP (43_stream_decoder.md R106 to R112). A
command is one step (20_memory.md R43); inside it the micro-operations run in the order written, and one that
raises stops the command there (60_exceptions.md R126). -/

namespace Sys2Proof.Machine

/-! ### The parts of BYTE -/

/-- One iteration of the drain loop (R110; DRAIN1 of 30_encoding.md R65): POP 4, UPD, `skip - 1`. -/
def drainOne (s : State) : Except ErrorKind State :=
  match s.buffer.pop 4 with
  | .error e => .error e
  | .ok (rdata, b) =>
    .ok (((s.setBuffer b).setChecksum (s.checksum.update (nibbleOf rdata))).setScanner
      { s.scanner with skip := s.scanner.skip - 1 })

/-- The drain loop's condition: `skip > 0 and BufRem() >= 4` (R110). -/
def drainDue (s : State) : Bool := decide (s.scanner.skip ≠ 0) && decide (4 ≤ s.buffer.rem)

/-- At most `n` iterations of the drain loop. -/
def drainLoop : Nat → State → State
  | 0, s => s
  | n + 1, s =>
    if drainDue s then
      match drainOne s with
      | .ok t => drainLoop n t
      | .error e => raise e s
    else s

/-- The drain loop. Each iteration removes four bits, so `fillBits div 4` iterations are enough (R159). -/
def drain (s : State) : State := drainLoop (s.buffer.rem / 4) s

/-- BYTE once it is accepted (R107): PUSH 8, at most one SCAN, then the drain. -/
def ingest (b : Byte) (s : State) : State :=
  match s.buffer.push s.params.cap 8 (byteOperand b) with
  | .error e => raise e s
  | .ok buf =>
    let pushed := s.setBuffer buf
    drain (if pushed.scanner.skip = 0 then scan pushed else pushed)

/-- EOS once it is accepted (R108): the test is on `value`, not on `fillBits` (90_conflicts.md C1). There is no
trailing drain of the checksum (R115). -/
def endStream (s : State) : State :=
  if s.buffer.value ≠ 0 then raise .formatError s else s.setDone true

/-! ### Meanings -/

/-- NOP (R109). -/
def execNop (s : State) : Result := .next s

/-- BYTE (R107), gated by R112. -/
def execByte (b : Byte) (s : State) : Result := .next (if s.ended then s else ingest b s)

/-- EOS (R108), gated by R112. -/
def execEos (s : State) : Result := .next (if s.ended then s else endStream s)

/-- RESET (R106): every register to its reset value, from every state. The parameters stay (R142 item 1) and so
do the inputs the host has yet to have executed. -/
def execReset (s : State) : Result := .next ((State.resetWith s.params).setPort s.port)

end Sys2Proof.Machine
end

