-- ==== Sys2Proof/Machine/Dispatch.lean ====
section
/-! DEFINITION. One arm per constructor of Instr. -/

namespace Sys2Proof.Machine

def exec (i : Instr) (s : State) : Host.Outcome State Fault Refusal :=
  match i with
  | .nop => Sys2Proof.Machine.execNop s
  | .byte b => Sys2Proof.Machine.execByte b s
  | .eos => Sys2Proof.Machine.execEos s
  | .reset => Sys2Proof.Machine.execReset s
  | .unop => Sys2Proof.Machine.execUnop s
  | .push nbits bits => Sys2Proof.Machine.execPush nbits bits s
  | .pop nbits => Sys2Proof.Machine.execPop nbits s
  | .rem => Sys2Proof.Machine.execRem s
  | .peek nbits => Sys2Proof.Machine.execPeek nbits s
  | .scan => Sys2Proof.Machine.execScan s
  | .scanScanning => Sys2Proof.Machine.execScanScanning s
  | .scanAwaitingSize => Sys2Proof.Machine.execScanAwaitingSize s
  | .scanAwaitingShortLength => Sys2Proof.Machine.execScanAwaitingShortLength s
  | .scanAwaitingExtendedLength => Sys2Proof.Machine.execScanAwaitingExtendedLength s
  | .scanAwaitingDirOffset => Sys2Proof.Machine.execScanAwaitingDirOffset s
  | .upd nib => Sys2Proof.Machine.execUpd nib s
  | .final => Sys2Proof.Machine.execFinal s
  | .size => Sys2Proof.Machine.execSize s
  | .reserved9 => Sys2Proof.Machine.execReserved9 s
  | .reservedA => Sys2Proof.Machine.execReservedA s
  | .reservedB => Sys2Proof.Machine.execReservedB s
  | .reservedC => Sys2Proof.Machine.execReservedC s
  | .reservedD => Sys2Proof.Machine.execReservedD s
  | .reservedE => Sys2Proof.Machine.execReservedE s
  | .reservedF => Sys2Proof.Machine.execReservedF s
  | .pSize0 => Sys2Proof.Machine.execPSize0 s
  | .pSize1 => Sys2Proof.Machine.execPSize1 s
  | .pSize2 => Sys2Proof.Machine.execPSize2 s
  | .pSize3 => Sys2Proof.Machine.execPSize3 s
  | .pSize4 => Sys2Proof.Machine.execPSize4 s
  | .pSize5 => Sys2Proof.Machine.execPSize5 s
  | .pSize6 => Sys2Proof.Machine.execPSize6 s
  | .pSize7 => Sys2Proof.Machine.execPSize7 s
  | .pSize8 => Sys2Proof.Machine.execPSize8 s
  | .pAscic0 => Sys2Proof.Machine.execPAscic0 s
  | .pAscic1 => Sys2Proof.Machine.execPAscic1 s
  | .pAscic2 => Sys2Proof.Machine.execPAscic2 s
  | .pDir => Sys2Proof.Machine.execPDir s
  | .pFix0 => Sys2Proof.Machine.execPFix0 s
  | .pFix1 => Sys2Proof.Machine.execPFix1 s
  | .pFix2 => Sys2Proof.Machine.execPFix2 s
  | .pFix3 => Sys2Proof.Machine.execPFix3 s
  | .pFix4 => Sys2Proof.Machine.execPFix4 s
  | .pFix5 => Sys2Proof.Machine.execPFix5 s
  | .pFix6 => Sys2Proof.Machine.execPFix6 s
  | .pFix7 => Sys2Proof.Machine.execPFix7 s
  | .pFix8 => Sys2Proof.Machine.execPFix8 s
  | .pDefault code => Sys2Proof.Machine.execPDefault code s

end Sys2Proof.Machine
end

