-- ==== Sys2Proof/Machine/Fetch.lean ====
section
/-! DEFINITION. Where a step finds its operation: the oldest item at the port. The CORE fetches nothing itself
(10_state.md R21); the host gives it one command at a time, in order (20_memory.md R40). -/

namespace Sys2Proof.Machine

/-- The operation at the head of the port, and the state with that item taken; `none` when nothing is waiting. -/
def fetch (s : State) : Option (Instr × State) :=
  match s.port with
  | [] => none
  | w :: rest => some (decodePort w, s.setPort rest)

/-- One step: the operation at the head of the port. With nothing waiting "the CORE simply holds its registers"
(60_exceptions.md R135), as under NOP, the port's idle value (R109). -/
def stepFetched (s : State) : Result :=
  match fetch s with
  | none => .next s
  | some (i, t) => exec i t

/-- The port item that makes the scanner inspect what is buffered. -/
def scanWord : PortWord := .micro 5 OperandBus.idle

/-- `s` with an encoding placed so that the next step runs it. A command or micro-operation goes to the head of
the port. A prologue is not an input: the CORE meets it in the buffer (R42 of 20_memory.md), so its five nibbles
are put there, as in 95_test_vectors.md vectors N2 to N8, with the scanner due to read a prologue and a SCAN at
the head of the port (log entry 6). -/
def placeEncoding (s : State) : Encoding → State
  | .port w => s.setPort (w :: s.port)
  | .prologue c =>
    ((s.setBuffer { value := c.toNat, fillBits := 20 }).setScanner
      { mode := .scanning, skip := 0, dirFlag := s.scanner.dirFlag }).setPort (scanWord :: s.port)

/-- `s` with a table word placed, unchanged where the word is no operation. -/
def placeTableWord (s : State) (nbits w : Nat) : State :=
  match tableEncoding nbits w with
  | some e => placeEncoding s e
  | none => s

end Sys2Proof.Machine
end

