-- ==== Sys2Proof/Machine/Views.lean ====
section
/-! DEFINITION. What the host can read (10_state.md R23), the result of a run (43_stream_decoder.md R113), and
the bit buffer as a list of bits (20_memory.md R35). Reading changes nothing: these are functions of the
state. -/

namespace Sys2Proof.Machine

/-- The status view (R23), readable at any time. The first three outputs are a result only when `done` is 1. -/
structure StatusView where
  checksum    : BitVec 16
  byteSize    : Nat
  hasHalfByte : Bool
  done        : Bool
  err         : BitVec 2
  dirFlag     : Bool
  dbgValue    : Nat
  dbgFillBits : Nat
  dbgMode     : BitVec 3
  dbgSkip     : Field20
deriving DecidableEq, Repr

/-- The status view of a state. -/
def statusView (s : State) : StatusView where
  checksum := s.checksum.crc
  byteSize := s.checksum.byteSize
  hasHalfByte := s.checksum.hasHalfByte
  done := s.done
  err := errCode s.err
  dirFlag := s.scanner.dirFlag
  dbgValue := s.buffer.value
  dbgFillBits := s.buffer.fillBits
  dbgMode := modeCode s.scanner.mode
  dbgSkip := s.scanner.skip

/-- What a run has come to (R113, R116). -/
inductive RunResult
  /-- The run is still open. -/
  | unfinished
  /-- `done == 1`. -/
  | ok (checksum : BitVec 16) (byteSize : Nat) (hasHalfByte : Bool)
  /-- `err != 0`: the error kind and nothing else. -/
  | error (e : ErrorKind)
deriving DecidableEq, Repr

/-- The result of the run (R113): none while it is open, never a partial one after an error. -/
def runResult (s : State) : RunResult :=
  match s.err with
  | some e => .error e
  | none =>
    if s.done then .ok s.checksum.crc s.checksum.byteSize s.checksum.hasHalfByte else .unfinished

/-- R35: the buffer as the list of its bits, oldest first. -/
def BitBuffer.bits (b : BitBuffer) : List Bool := (List.range b.fillBits).map b.value.testBit

/-- The low `n` bits of a word, lowest first. -/
def lowBits (n w : Nat) : List Bool := (List.range n).map w.testBit

end Sys2Proof.Machine
end

