-- ==== Sys2Proof/Machine/Sequence.lean ====
section
/-! DEFINITION. Sequences of operations: the pseudo-commands of 30_encoding.md R65, one whole run as a function
(43_stream_decoder.md R116), and the written syntax of R64. -/

namespace Sys2Proof.Machine

/-- Operations one after another, each seeing every write of the ones before it (20_memory.md R40). -/
def execSeq : List Instr → State → Result
  | [], s => .next s
  | i :: is, s =>
    match exec i s with
    | .next t => execSeq is t
    | .fault f => .fault f
    | .refused r => .refused r

/-- The same, with what came back from each operation in order. -/
def execTrace : List Instr → State → Option (List MicroResult × State)
  | [], s => some ([], s)
  | i :: is, s =>
    match exec i s with
    | .next t => (execTrace is t).map fun r => (t.result :: r.1, r.2)
    | .fault _ => none
    | .refused _ => none

/-- BYTES (R65): one BYTE per byte, in order. -/
def bytesCommands (bs : List Byte) : List Instr := bs.map Instr.byte

/-- STREAM (R65): one complete run, as the host drives it (00_scope.md R7). -/
def streamCommands (bs : List Byte) : List Instr := .reset :: (bytesCommands bs ++ [.eos])

/-- `pack` (R5): nibbles to bytes, low nibble first, a missing last nibble taken as 0. -/
def pack : List Nibble → List Byte
  | [] => []
  | [a] => [(0 : Nibble) ++ a]
  | a :: b :: ns => (b ++ a) :: pack ns

/-- NIBBLES (R65). -/
def nibblesCommands (ns : List Nibble) : List Instr := bytesCommands (pack ns)

/-- `field` (R5): the value of a field given by its nibbles, first nibble least significant (R34). -/
def fieldOfNibbles : List Nibble → Nat
  | [] => 0
  | n :: ns => n.toNat + 16 * fieldOfNibbles ns

/-- The nibbles of the stream, low nibble of every byte first (20_memory.md R32). -/
def nibblesOfBytes : List Byte → List Nibble
  | [] => []
  | b :: bs => b.setWidth 4 :: (b >>> 4).setWidth 4 :: nibblesOfBytes bs

/-- `run(b)` (R116): the state after `RESET; BYTE b[0]; ...; BYTE b[L-1]; EOS`. -/
def run (bs : List Byte) (s : State) : Result := execSeq (streamCommands bs) s

/-- A number in hexadecimal, upper case, without leading zeros. -/
def hexDigits (n : Nat) : List Char := (Nat.toDigits 16 n).map Char.toUpper

/-- R64: a command or micro-operation as it is written; a prologue is stream content and has no written form. -/
def written : Instr → Option String
  | .nop => some "NOP"
  | .byte b => some ("BYTE 0x" ++ String.ofList (hexDigits b.toNat))
  | .eos => some "EOS"
  | .reset => some "RESET"
  | .unop => some "UNOP"
  | .push n v => some ("PUSH " ++ String.ofList (Nat.toDigits 10 n) ++ ", 0x" ++ String.ofList (hexDigits v))
  | .pop n => some ("POP " ++ String.ofList (Nat.toDigits 10 n))
  | .rem => some "REM"
  | .peek n => some ("PEEK " ++ String.ofList (Nat.toDigits 10 n))
  | .scan | .scanScanning | .scanAwaitingSize | .scanAwaitingShortLength | .scanAwaitingExtendedLength
  | .scanAwaitingDirOffset => some "SCAN"
  | .upd n => some ("UPD 0x" ++ String.ofList (hexDigits n.toNat))
  | .final => some "FINAL"
  | .size => some "SIZE"
  | .reserved9 | .reservedA | .reservedB | .reservedC | .reservedD | .reservedE | .reservedF => none
  | .pSize0 | .pSize1 | .pSize2 | .pSize3 | .pSize4 | .pSize5 | .pSize6 | .pSize7 | .pSize8
  | .pAscic0 | .pAscic1 | .pAscic2 | .pDir
  | .pFix0 | .pFix1 | .pFix2 | .pFix3 | .pFix4 | .pFix5 | .pFix6 | .pFix7 | .pFix8 | .pDefault _ => none

end Sys2Proof.Machine
end

