-- ==== Sys2Proof/Safety.lean ====
section
/-! DEFINITION. What counts as a sound state and a safe run: the invariants of 10_state.md section 4, the states
between two commands of an assembled CORE, and the drain loop as a relation over micro-operations. -/

namespace Sys2Proof.Machine

/-- R25 and R12: no bit of `value` at position `fillBits` or above, and `fillBits <= CAP`. -/
abbrev BufferSound (s : State) : Prop :=
  s.buffer.fillBits ≤ s.params.cap ∧ s.buffer.value < 2 ^ s.buffer.fillBits

/-- R18: `err != 0` and `done == 1` never hold together. -/
abbrev EndsOnce (s : State) : Prop := s.err = none ∨ s.done = false

/-- R61: only commands cross the boundary of an assembled CORE. -/
abbrev OnlyCommandsWaiting (s : State) : Prop := ∀ w ∈ s.port, w.isCommand = true

/-- The largest fill level between two commands, by mode (70_reset_and_hazards.md R150). -/
def boundaryFill : Mode → Nat
  | .scanning => 24
  | .awaitingSize => 16
  | .awaitingShortLength => 12
  | .awaitingExtendedLength => 24
  | .awaitingDirOffset => 16

/-- R26 (a), (b), (c): what holds between two commands. The bound by mode is what makes (c) inductive. -/
abbrev AtBoundary (s : State) : Prop :=
  s.buffer.fillBits % 4 = 0 ∧
    (s.scanner.skip ≠ 0 → s.buffer.fillBits = 0) ∧
    s.buffer.fillBits ≤ boundaryFill s.scanner.mode

/-- A state of an assembled CORE between two commands: a legal capacity (R142 item 1), a sound buffer, R26, R18,
and nothing but commands waiting. -/
abbrev BetweenCommands (s : State) : Prop :=
  32 ≤ s.params.cap ∧ BufferSound s ∧ AtBoundary s ∧ EndsOnce s ∧ OnlyCommandsWaiting s

/-- The run is open: commands are accepted (R112). -/
abbrev RunOpen (s : State) : Prop := s.err = none ∧ s.done = false

/-- The drain loop (R110) as the micro-operations it issues: while `skip > 0` and 4 bits are held, POP 4, UPD of
the nibble it returned, `skip <- skip - 1`. -/
inductive Drains : State → State → Prop
  | stop (s : State) (h : s.scanner.skip = 0 ∨ s.buffer.fillBits < 4) : Drains s s
  | again (s popped updated t : State) (rdata : Nat)
      (hskip : s.scanner.skip ≠ 0) (hfill : 4 ≤ s.buffer.fillBits)
      (hpop : exec (.pop 4) s = .next popped) (hdata : popped.result = .rdata rdata)
      (hupd : exec (.upd (BitVec.ofNat 4 rdata)) popped = .next updated)
      (hrest : Drains (updated.setScanner { updated.scanner with skip := updated.scanner.skip - 1 }) t) :
      Drains s t

end Sys2Proof.Machine
end

