-- ==== Sys2Proof/Certificates/Slice0/Obligations.lean ====
section
/-! DEFINITION. The statements for the provers, file by file of the spec. Where a statement says "the model's
choice", the clause rests on the named log entry of notes/assumptions, not on a rule of the spec. -/

open Sys2Proof Sys2Proof.Machine

/-! ### Encoding -/

/-- 30_encoding.md sections 3, 5 and 6: for every capacity, every table with distinct codes and every well-formed
operation, with every operand at every value its bus carries, decoding the encoding gives the operation back, and
the encoding's buses carry it. The five arm rows of SCAN share
SCAN's select; they come back through `mode` (R60 "SCAN decodes further on the `mode` register"). -/
def Obligations.DecodeOfEncodeReturnsTheInstruction : Prop :=
  ∀ (p : Params) (i : Instr), p.table.CodesDistinct → WellFormed p i = true →
    (i.armMode = none → decode p.table (encode p.table i) = i) ∧
    (∀ m, i.armMode = some m →
      decode p.table (encode p.table i) = .scan ∧ selectArm m 0 (decode p.table (encode p.table i)) = i) ∧
    (∀ sel bus, encode p.table i = .port (.micro sel bus) → bus.Fits p)

/-- Ten words of spec/opcode_table.json decode to their rows, and two words that are none of its rows are refused
(sanity). The two prologue codes among the ten are the spec's candidate (PRESUMED, log entry 4); the layout of a word
in bytes and the refusal of 0x400 in 16 bits and of 0x10 in 8 bits are the model's choice (log entry 9). -/
def Obligations.WordsOfTheOpcodeTableDecode : Prop :=
  decodeTableWord 16 0x12C = some (.byte 0x2C) ∧ decodeTableWord 16 0x300 = some .reset ∧
    decodeTableWord 16 0x200 = some .eos ∧ decodeTableWord 16 0x000 = some .nop ∧
    decodeTableWord 8 0x5 = some .scan ∧ decodeTableWord 8 0x8 = some .size ∧
    decodeTableWord 8 0x9 = some .reserved9 ∧ decodeTableWord 24 0x02A2C = some .pSize2 ∧
    decodeTableWord 24 0x02A96 = some .pDir ∧ decodeTableWord 24 0x02933 = some .pFix3 ∧
    decodeTableWord 16 0x400 = none ∧ decodeTableWord 8 0x10 = none

/-- 30_encoding.md section 5, the match and mask columns of the command word's table: every one of the 1024
words is the command its bits 9:8 name, and BYTE takes its bits 7:0 (the encoding is the spec's decision D13). -/
def Obligations.EveryCommandWordMatchesItsMask : Prop :=
  ∀ w : BitVec 10,
    (w &&& 0x300 = 0x000 → decodeCommand w = .nop) ∧
    (w &&& 0x300 = 0x100 → decodeCommand w = .byte (w.setWidth 8)) ∧
    (w &&& 0x300 = 0x200 → decodeCommand w = .eos) ∧
    (w &&& 0x300 = 0x300 → decodeCommand w = .reset)

/-- 30_encoding.md section 3: the lookup is the table's triple on its 22 codes and the one default on every other
code; all 20 bits take part, and no prologue raises an error. The directory's skip of 8 is the spec's reading N3
(DEDUCED, log entry 14); that a code also answers a next state where no prologue is due is the model's choice (log
entry 11). -/
def Obligations.LookupIsTheTableOrTheDefault : Prop :=
  ∀ (pt : PrologueTable) (c : Field20), pt.CodesDistinct →
    (∀ i : Fin 9, c = pt.size[i] → lookup pt c = ⟨.awaitingSize, 5, false⟩) ∧
    (∀ i : Fin 3, c = pt.ascic[i] → lookup pt c = ⟨.awaitingShortLength, 5, false⟩) ∧
    (c = pt.dir → lookup pt c = ⟨.awaitingDirOffset, 8, true⟩) ∧
    (∀ i : Fin 9, c = pt.fix[i].code → lookup pt c = ⟨.scanning, pt.fix[i].skip.nibbles, false⟩) ∧
    (c ∉ pt.codes → lookup pt c = ⟨.scanning, 5, false⟩) ∧
    (∀ s : State, ∃ t, exec (decodePrologue pt c) s = .next t ∧ t.err = s.err)

/-! ### Reset and the step -/

/-- 10_state.md R10 and R28: every register at the Reset column after reset, and after RESET from every state
(43_stream_decoder.md, RESET). The parameters and the inputs still waiting stay, and the last result is cleared:
the model's choice (log entries 2, 5 and 6). -/
def Obligations.ResetPutsEveryRegisterAtItsResetValue : Prop :=
  (State.reset.buffer = ⟨0, 0⟩ ∧ State.reset.scanner = ⟨.scanning, 0, false⟩ ∧
    State.reset.checksum = ⟨0, 0⟩ ∧ State.reset.err = none ∧ State.reset.done = false) ∧
  ∀ s : State, ∃ t, exec .reset s = .next t ∧ t.buffer = ⟨0, 0⟩ ∧ t.scanner = ⟨.scanning, 0, false⟩ ∧
    t.checksum = ⟨0, 0⟩ ∧ t.err = none ∧ t.done = false ∧
    t.params = s.params ∧ t.port = s.port ∧ t.result = .none

/-- The reset state has the invariants: legal parameters (R55, R142 item 1; the two open rows of the table are
the model's placeholders, log entry 3), a sound buffer, and the conditions between two commands. -/
def Obligations.ResetStateHasTheInvariants : Prop :=
  State.reset.params.Legal ∧ BufferSound State.reset ∧ BetweenCommands State.reset

/-- A step runs the operation at the head of the port, with that item taken and nothing else changed; with
nothing waiting it changes nothing (the port is the model's, log entry 6). -/
def Obligations.StepRunsTheDecodedOperation : Prop :=
  (∀ (s : State) (w : PortWord) (rest : List PortWord), s.port = w :: rest →
    step s = exec (decodePort w) { s with port := rest }) ∧
  (∀ (p : Params) (s : State) (i : Instr) (w : PortWord) (rest : List PortWord),
    WellFormed p i = true → i.armMode = none → encode p.table i = .port w → s.port = w :: rest →
    step s = exec i { s with port := rest }) ∧
  (∀ s : State, s.port = [] → step s = .next s)

/-- A table word placed with `withFetchWord` is what the next step runs: a command or a micro-operation on the
state as it was, a prologue on the state with its five nibbles buffered and a prologue due (log entry 6). -/
def Obligations.StepRunsThePlacedTableWord : Prop :=
  ∀ (s : State) (nbits w : Nat),
    (∀ p, tableEncoding nbits w = some (.port p) →
      step (s.withFetchWord nbits w) = exec (decodePort p) s) ∧
    (∀ c, tableEncoding nbits w = some (.prologue c) →
      step (s.withFetchWord nbits w) =
        exec (decodePrologue s.params.table c)
          { s with buffer := ⟨c.toNat, 20⟩, scanner := ⟨.scanning, 0, s.scanner.dirFlag⟩ })

/-! ### The bit buffer -/

/-- 40_bit_buffer.md, PUSH: where the bits fit, the low `nbits` bits of the operand are ORed in at offset
`fillBits`, exactly, and `fillBits` grows by `nbits`; nothing else changes but the reported outcome (log
entry 5). Every capacity. -/
def Obligations.PushPlacesTheMaskedBitsAtTheFillLevel : Prop :=
  ∀ (s : State) (nbits bits : Nat), s.buffer.fillBits + nbits ≤ s.params.cap →
    exec (.push nbits bits) s =
      .next { s with
        buffer := ⟨s.buffer.value ||| ((bits % 2 ^ nbits) <<< s.buffer.fillBits), s.buffer.fillBits + nbits⟩
        result := .ok }

/-- 40_bit_buffer.md, PUSH, "Overflow guard" and the two-way outcome of a sub-block on its own: where the bits do
not fit, the outcome is the error and every register of the CORE is as it was, `err` among them (decisions D3 and
D24 of the spec; the outcome stands in the model's own field, log entry 5). -/
def Obligations.PushThatDoesNotFitRaisesOverflow : Prop :=
  ∀ (s : State) (nbits bits : Nat), s.params.cap < s.buffer.fillBits + nbits →
    exec (.push nbits bits) s = .next { s with result := .error .bufferOverflow }

/-- 40_bit_buffer.md, POP: the low `nbits` bits are returned, the rest moves down, `fillBits` falls by `nbits`;
nothing else changes. -/
def Obligations.PopReturnsTheLowBitsAndRemovesThem : Prop :=
  ∀ (s : State) (nbits : Nat), nbits ≤ s.buffer.fillBits →
    exec (.pop nbits) s =
      .next { s with
        buffer := ⟨s.buffer.value / 2 ^ nbits, s.buffer.fillBits - nbits⟩
        result := .rdata (s.buffer.value % 2 ^ nbits) }

/-- 40_bit_buffer.md, "Underflow guard": a POP of more bits than are buffered always fails with BufferUnderflow and
with no data. That the buffer is as it was is the spec's decision D4. -/
def Obligations.PopOfTooManyBitsFailsWithUnderflow : Prop :=
  ∀ (s : State) (nbits : Nat), s.buffer.fillBits < nbits →
    ∃ t, exec (.pop nbits) s = .next t ∧ t.result = .error .bufferUnderflow ∧
      (∀ v, t.result ≠ .rdata v) ∧ t.buffer = s.buffer

/-- 40_bit_buffer.md, POP and the two-way outcome of a sub-block on its own: a POP that raises answers its error and
leaves every register of the CORE as it was, `err` among them (decisions D4 and D24 of the spec; the outcome stands
in the model's own field, log entry 5). -/
def Obligations.PopThatRaisesKeepsEveryRegister : Prop :=
  ∀ (s : State) (nbits : Nat), s.buffer.fillBits < nbits →
    exec (.pop nbits) s = .next { s with result := .error .bufferUnderflow }

/-- R73: REM reports the fill level, changes nothing else, and its select is 0011. -/
def Obligations.RemReportsTheFillLevel : Prop :=
  (∀ bus, decodeMicro 3 bus = .rem) ∧
  ∀ s : State, ∃ t n, exec .rem s = .next t ∧ t.result = .rcount n ∧ n = s.buffer.fillBits ∧
    t = { s with result := t.result } ∧ (BufferSound s → n ≤ s.params.cap)

/-- 40_bit_buffer.md, PEEK: the low `nbits` bits, whatever the fill level, and nothing removed; what POP of the
same width would return (never raising is decision D6 of the spec). -/
def Obligations.PeekReadsWhatPopWouldReturn : Prop :=
  ∀ (s : State) (nbits : Nat), ∃ t, exec (.peek nbits) s = .next t ∧
    t = { s with result := .rdata (s.buffer.value % 2 ^ nbits) } ∧
    (nbits ≤ s.buffer.fillBits →
      ∃ u, exec (.pop nbits) s = .next u ∧ u.result = t.result)

/-- 20_memory.md section 2: the buffer is a first-in first-out list of bits. PUSH appends the low `nbits` bits of
its operand, lowest first; POP removes from the front, the first removed bit being bit 0 of the result. -/
def Obligations.BufferIsFirstInFirstOut : Prop :=
  (∀ (s t : State) (nbits bits : Nat), BufferSound s →
    s.buffer.fillBits + nbits ≤ s.params.cap → exec (.push nbits bits) s = .next t →
    t.buffer.bits = s.buffer.bits ++ lowBits nbits bits) ∧
  (∀ (s t : State) (nbits rdata : Nat), BufferSound s →
    nbits ≤ s.buffer.fillBits → exec (.pop nbits) s = .next t → t.result = .rdata rdata →
    s.buffer.bits = lowBits nbits rdata ++ t.buffer.bits)

/-- R75: from an empty buffer, pushes of total width at most `CAP` followed by pops of the same widths in the
same order: no operation raises, each pop returns the value pushed, masked to its width, and the buffer ends
empty. -/
def Obligations.PushesThenPopsRoundTrip : Prop :=
  ∀ (s : State) (items : List (Nat × Nat)), s.buffer = ⟨0, 0⟩ → (items.map fun x => x.1).sum ≤ s.params.cap →
    ∃ t, execTrace (items.map (fun x => Instr.push x.1 x.2) ++ items.map (fun x => Instr.pop x.1)) s =
        some (items.map (fun _ => MicroResult.ok) ++
          items.map (fun x => MicroResult.rdata (x.2 &&& (2 ^ x.1 - 1))), t) ∧
      t.buffer = ⟨0, 0⟩ ∧ t.err = s.err

/-- 20_memory.md section 1: five nibbles pushed in stream order are peeked as one 20-bit field whose first nibble
is the least significant, and two as one 8-bit field. -/
def Obligations.FieldsAreLittleEndianInNibbles : Prop :=
  ∀ (s : State) (a b c d e : Nibble), s.buffer = ⟨0, 0⟩ → 20 ≤ s.params.cap →
    ∃ t, execSeq ([a, b, c, d, e].map fun n => Instr.push 4 n.toNat) s = .next t ∧
      (peek20 t.buffer).toNat = fieldOfNibbles [a, b, c, d, e] ∧
      (peek8 t.buffer).toNat = fieldOfNibbles [a, b]

/-! ### The scanner -/

/-- 41_scanner.md, SCAN: nothing while `skip` is not 0, else exactly the arm row of the mode, once (the inner
guard is decision D19 of the spec). -/
def Obligations.ScanTakesTheArmOfTheMode : Prop :=
  ∀ s : State, ∃ t, exec .scan s = .next t ∧ (s.scanner.skip ≠ 0 → t = s) ∧
    (s.scanner.skip = 0 → exec s.scanner.mode.arm s = .next t)

/-- 41_scanner.md, SCAN arm `Scanning`: a prologue with 20 bits buffered is classified by its low 20 bits; the
outcomes by class, `skip` at least 5, `dirFlag` only ever set, and nothing but the scanner written. With fewer bits
nothing changes. The directory's skip of 8 is the spec's reading N3 and its sticky flag decision D18 (DEDUCED, log
entry 14). -/
def Obligations.ScanningArmClassifiesThePrologue : Prop :=
  (∀ (s : State) (p : Field20), s.params.table.CodesDistinct → s.scanner.mode = .scanning → s.scanner.skip = 0 →
      20 ≤ s.buffer.fillBits → p.toNat = s.buffer.value % 2 ^ 20 →
      ∃ t, exec .scanScanning s = .next t ∧ exec .scan s = .next t ∧ t = { s with scanner := t.scanner } ∧
        5 ≤ t.scanner.skip.toNat ∧
        ((∃ i : Fin 9, p = s.params.table.size[i]) →
          t.scanner = ⟨.awaitingSize, 5, s.scanner.dirFlag⟩) ∧
        ((∃ i : Fin 3, p = s.params.table.ascic[i]) →
          t.scanner = ⟨.awaitingShortLength, 5, s.scanner.dirFlag⟩) ∧
        (p = s.params.table.dir → t.scanner = ⟨.awaitingDirOffset, 8, true⟩) ∧
        (∀ i : Fin 9, p = s.params.table.fix[i].code →
          t.scanner = ⟨.scanning, s.params.table.fix[i].skip.nibbles, s.scanner.dirFlag⟩) ∧
        (p ∉ s.params.table.codes → t.scanner = ⟨.scanning, 5, s.scanner.dirFlag⟩)) ∧
  ∀ s : State, s.scanner.mode = .scanning → s.scanner.skip = 0 → s.buffer.fillBits < 20 →
    exec .scanScanning s = .next s ∧ exec .scan s = .next s

/-- R83: a size field becomes `skip`, and the mode `Scanning`; with fewer than 20 bits nothing changes. -/
def Obligations.AwaitingSizeArmReadsTheSize : Prop :=
  (∀ s : State, s.scanner.mode = .awaitingSize → s.scanner.skip = 0 → 20 ≤ s.buffer.fillBits →
      ∃ t, exec .scanAwaitingSize s = .next t ∧ exec .scan s = .next t ∧
        t.scanner.skip.toNat = s.buffer.value % 2 ^ 20 ∧ t.scanner.mode = .scanning ∧
        t.scanner.dirFlag = s.scanner.dirFlag ∧ t = { s with scanner := t.scanner }) ∧
  ∀ s : State, s.scanner.mode = .awaitingSize → s.scanner.skip = 0 → s.buffer.fillBits < 20 →
    exec .scanAwaitingSize s = .next s ∧ exec .scan s = .next s

/-- R84: a short length `len` gives `skip = 2 + 2*len`, and the mode `Scanning`; with fewer than 8 bits
nothing changes. -/
def Obligations.AwaitingShortLengthArmReadsTheLength : Prop :=
  (∀ s : State, s.scanner.mode = .awaitingShortLength → s.scanner.skip = 0 → 8 ≤ s.buffer.fillBits →
      ∃ t, exec .scanAwaitingShortLength s = .next t ∧ exec .scan s = .next t ∧
        t.scanner.skip.toNat = 2 + 2 * (s.buffer.value % 2 ^ 8) ∧ t.scanner.mode = .scanning ∧
        t.scanner.dirFlag = s.scanner.dirFlag ∧ t = { s with scanner := t.scanner }) ∧
  ∀ s : State, s.scanner.mode = .awaitingShortLength → s.scanner.skip = 0 → s.buffer.fillBits < 8 →
    exec .scanAwaitingShortLength s = .next s ∧ exec .scan s = .next s

/-- R85: an extended length `len` gives `skip = 4 + 2*len`, and the mode `Scanning`; with fewer than 8 bits
nothing changes. -/
def Obligations.AwaitingExtendedLengthArmReadsTheLength : Prop :=
  (∀ s : State, s.scanner.mode = .awaitingExtendedLength → s.scanner.skip = 0 → 8 ≤ s.buffer.fillBits →
      ∃ t, exec .scanAwaitingExtendedLength s = .next t ∧ exec .scan s = .next t ∧
        t.scanner.skip.toNat = 4 + 2 * (s.buffer.value % 2 ^ 8) ∧ t.scanner.mode = .scanning ∧
        t.scanner.dirFlag = s.scanner.dirFlag ∧ t = { s with scanner := t.scanner }) ∧
  ∀ s : State, s.scanner.mode = .awaitingExtendedLength → s.scanner.skip = 0 → s.buffer.fillBits < 8 →
    exec .scanAwaitingExtendedLength s = .next s ∧ exec .scan s = .next s

/-- R86: a directory offset becomes `skip`, and the mode `AwaitingExtendedLength`; with fewer than 20 bits nothing
changes. -/
def Obligations.AwaitingDirOffsetArmReadsTheOffset : Prop :=
  (∀ s : State, s.scanner.mode = .awaitingDirOffset → s.scanner.skip = 0 → 20 ≤ s.buffer.fillBits →
      ∃ t, exec .scanAwaitingDirOffset s = .next t ∧ exec .scan s = .next t ∧
        t.scanner.skip.toNat = s.buffer.value % 2 ^ 20 ∧ t.scanner.mode = .awaitingExtendedLength ∧
        t.scanner.dirFlag = s.scanner.dirFlag ∧ t = { s with scanner := t.scanner }) ∧
  ∀ s : State, s.scanner.mode = .awaitingDirOffset → s.scanner.skip = 0 → s.buffer.fillBits < 20 →
    exec .scanAwaitingDirOffset s = .next s ∧ exec .scan s = .next s

/-- 41_scanner.md, "Not enough bits": with too few bits for the mode's field (20 in three modes, 8 in the two
length modes) SCAN and the arm of the mode change nothing. An arm row whose own mode is not the current one, or
while `skip` is not 0, changes nothing either: the model's choice, log entry 10. -/
def Obligations.ScanWaitsForTheWholeField : Prop :=
  (∀ s : State,
    s.buffer.fillBits <
      (if s.scanner.mode = .awaitingShortLength ∨ s.scanner.mode = .awaitingExtendedLength then 8 else 20) →
    exec .scan s = .next s ∧ exec s.scanner.mode.arm s = .next s) ∧
  (∀ (s : State) (m : Mode), s.scanner.mode ≠ m ∨ s.scanner.skip ≠ 0 → exec m.arm s = .next s)

/-- The object stream as a program (20_memory.md section 3, "the object stream plays the role of the program"):
with a prologue due, SCAN does what the operation does that the low 20 bits of the buffer name. -/
def Obligations.ScanExecutesThePrologueItFinds : Prop :=
  ∀ (s : State) (p : Field20), s.scanner.mode = .scanning → s.scanner.skip = 0 →
    20 ≤ s.buffer.fillBits → p.toNat = s.buffer.value % 2 ^ 20 →
    exec .scan s = exec (decodePrologue s.params.table p) s

/-- 30_encoding.md section 3, the classes with a field to follow: the nine size-prefixed codes, the three
short-length codes and the directory code, where a prologue is due. Nothing but the scanner is written. The
directory's skip of 8 is the spec's reading N3 and its flag decision D18 (DEDUCED, log entry 14). -/
def Obligations.LengthPrefixedProloguesSetTheNextPhase : Prop :=
  ∀ s : State, s.scanner.mode = .scanning → s.scanner.skip = 0 → 20 ≤ s.buffer.fillBits →
    (∀ i ∈ [Instr.pSize0, .pSize1, .pSize2, .pSize3, .pSize4, .pSize5, .pSize6, .pSize7, .pSize8],
      exec i s = .next { s with scanner := ⟨.awaitingSize, 5, s.scanner.dirFlag⟩ }) ∧
    (∀ i ∈ [Instr.pAscic0, .pAscic1, .pAscic2],
      exec i s = .next { s with scanner := ⟨.awaitingShortLength, 5, s.scanner.dirFlag⟩ }) ∧
    exec .pDir s = .next { s with scanner := ⟨.awaitingDirOffset, 8, true⟩ }

/-- 30_encoding.md section 3, fixed-skip codes and the default, where a prologue is due: the table's literal skip
while remaining in `Scanning`, or 5. Under `PT_REF` the first seven are 7, 10, 11, 21, 26, 37 and 47 (the pairing
is the spec's candidate, log entry 4). -/
def Obligations.FixedAndDefaultProloguesSkipInScanning : Prop :=
  ∀ s : State, s.scanner.mode = .scanning → s.scanner.skip = 0 → 20 ≤ s.buffer.fillBits →
    (∀ r ∈ [(Instr.pFix0, s.params.table.fix[0]), (.pFix1, s.params.table.fix[1]),
        (.pFix2, s.params.table.fix[2]), (.pFix3, s.params.table.fix[3]), (.pFix4, s.params.table.fix[4]),
        (.pFix5, s.params.table.fix[5]), (.pFix6, s.params.table.fix[6]), (.pFix7, s.params.table.fix[7]),
        (.pFix8, s.params.table.fix[8])],
      exec r.1 s = .next { s with scanner := ⟨.scanning, r.2.skip.nibbles, s.scanner.dirFlag⟩ }) ∧
    (s.params.table = referenceTable →
      ∀ r ∈ [(Instr.pFix0, (7 : Field20)), (.pFix1, 10), (.pFix2, 11), (.pFix3, 21), (.pFix4, 26), (.pFix5, 37),
          (.pFix6, 47)],
        exec r.1 s = .next { s with scanner := ⟨.scanning, r.2, s.scanner.dirFlag⟩ }) ∧
    (∀ c, exec (.pDefault c) s = .next { s with scanner := ⟨.scanning, 5, s.scanner.dirFlag⟩ })

/-- A prologue code changes nothing where no prologue is due (30_encoding.md R50 "Peeked in mode `Scanning`", and
"only when `skip == 0`"): the model's choice of what the row then does, log entry 11. -/
def Obligations.ProloguesNotDueChangeNothing : Prop :=
  ∀ (s : State) (pt : PrologueTable) (c : Field20),
    s.scanner.mode ≠ .scanning ∨ s.scanner.skip ≠ 0 ∨ s.buffer.fillBits < 20 →
    exec (decodePrologue pt c) s = .next s

/-- 41_scanner.md section "The mode transition graph", over all operations: whatever is executed but RESET, the
mode stays or moves along an edge of the graph. -/
def Obligations.ModeMovesOnlyAlongTheGraph : Prop :=
  ∀ (i : Instr) (s t : State), i ≠ .reset → exec i s = .next t →
    t.scanner.mode = s.scanner.mode ∨
    (s.scanner.mode = .scanning ∧ t.scanner.mode ≠ .awaitingExtendedLength) ∨
    (s.scanner.mode = .awaitingDirOffset ∧ t.scanner.mode = .awaitingExtendedLength) ∨
    ((s.scanner.mode = .awaitingSize ∨ s.scanner.mode = .awaitingShortLength ∨
      s.scanner.mode = .awaitingExtendedLength) ∧ t.scanner.mode = .scanning)

/-! ### The checksum -/

/-- R96: UPD folds the nibble in by the recurrence, exactly (the product is below 2^16, so nothing is
truncated), and counts it; nothing else changes. -/
def Obligations.UpdFollowsTheRecurrence : Prop :=
  (∀ bus : OperandBus, decodeMicro 6 bus = .upd bus.nib) ∧
  ∀ (s : State) (nib : Nibble), ∃ t, exec (.upd nib) s = .next t ∧
    t.checksum.crc.toNat =
      (s.checksum.crc.toNat >>> 4) ^^^ (((s.checksum.crc.toNat ^^^ nib.toNat) &&& 0xF) * 0x1081) ∧
    t.checksum.nibbleCount = s.checksum.nibbleCount + 1 ∧ t = { s with checksum := t.checksum }

/-- 42_checksum.md, "An equivalent bit-serial form": one UPD equals four steps of the one-bit update with the
polynomial 0x8408, on bits 0 to 3 of the nibble in that order. -/
def Obligations.UpdEqualsFourBitSerialSteps : Prop :=
  ∀ (s t : State) (nib : Nibble), exec (.upd nib) s = .next t →
    t.checksum.crc =
      [nib.getLsbD 0, nib.getLsbD 1, nib.getLsbD 2, nib.getLsbD 3].foldl
        (fun (crc : BitVec 16) bit => if crc.getLsbD 0 ^^ bit then (crc >>> 1) ^^^ 0x8408 else crc >>> 1) s.checksum.crc

/-- R98: FINAL reports the checksum register as it stands and changes nothing else. -/
def Obligations.FinalReportsTheChecksum : Prop :=
  (∀ bus, decodeMicro 7 bus = .final) ∧
  ∀ s : State, ∃ t, exec .final s = .next t ∧ t.result = .checksum s.checksum.crc ∧
    t = { s with result := t.result }

/-- R99: SIZE reports the nibble count halved, rounded down, and whether it is odd; nothing else changes. -/
def Obligations.SizeReportsHalfTheNibbleCount : Prop :=
  (∀ bus, decodeMicro 8 bus = .size) ∧
  ∀ s : State, ∃ t byteSize half, exec .size s = .next t ∧ t.result = .size byteSize half ∧
    s.checksum.nibbleCount = 2 * byteSize + half.toNat ∧ t = { s with result := t.result }

/-- R102: after `c` UPDs the count has grown by `c`, whatever the nibbles were; from reset it is `c`. -/
def Obligations.NibbleCountCountsTheUpdates : Prop :=
  ∀ (nibs : List Nibble) (s : State), ∃ t, execSeq (nibs.map Instr.upd) s = .next t ∧
    t.checksum.nibbleCount = s.checksum.nibbleCount + nibs.length ∧
    (s.checksum = State.reset.checksum → t.checksum.nibbleCount = nibs.length)

/-- R100: for a fixed nibble sequence the final checksum depends on the checksum at the start and on nothing
else: not on the count, the mode, the skip, the buffer or the outcome registers. -/
def Obligations.ChecksumDependsOnTheNibblesAlone : Prop :=
  ∀ (nibs : List Nibble) (s₁ s₂ : State), s₁.checksum.crc = s₂.checksum.crc →
    ∃ t₁ t₂, execSeq (nibs.map Instr.upd) s₁ = .next t₁ ∧ execSeq (nibs.map Instr.upd) s₂ = .next t₂ ∧
      t₁.checksum.crc = t₂.checksum.crc

/-! ### Commands -/

/-- NOP and UNOP change nothing in any state (43_stream_decoder.md, NOP; 30_encoding.md section 6). -/
def Obligations.NopAndUnopChangeNothing : Prop :=
  ∀ s : State, exec .nop s = .next s ∧ exec .unop s = .next s

/-- R110 and 43_stream_decoder.md, BYTE: an accepted BYTE is its micro-operations in order: PUSH 8, one SCAN if
`skip` is 0, then the drain loop, each iteration a POP of 4, an UPD of the nibble it returned and a decrement of
`skip`. (The last reported result, the model's own, stays: log entry 5.) -/
def Obligations.ByteIsPushThenScanThenDrain : Prop :=
  ∀ (s : State) (b : Byte), RunOpen s → BufferSound s → s.buffer.fillBits + 8 ≤ s.params.cap →
    ∃ pushed scanned drained, exec (.push 8 b.toNat) s = .next pushed ∧
      (pushed.scanner.skip = 0 → exec .scan pushed = .next scanned) ∧
      (pushed.scanner.skip ≠ 0 → scanned = pushed) ∧
      Drains scanned drained ∧
      exec (.byte b) s = .next { drained with result := s.result }

/-- 10_state.md section 4, accounting: an accepted BYTE that does not raise adds 8 bits to those held and those
counted, four bits to a nibble, and stops only with `skip` at 0 or fewer than four bits held. -/
def Obligations.AcceptedByteKeepsTheAccount : Prop :=
  ∀ (s : State) (b : Byte), RunOpen s → BufferSound s → s.buffer.fillBits + 8 ≤ s.params.cap →
    ∃ t, exec (.byte b) s = .next t ∧
      4 * t.checksum.nibbleCount + t.buffer.fillBits =
        4 * s.checksum.nibbleCount + s.buffer.fillBits + 8 ∧
      (t.scanner.skip = 0 ∨ t.buffer.fillBits < 4) ∧
      t.err = none ∧ t.done = false ∧ t.params = s.params ∧ t.port = s.port ∧ t.result = s.result

/-- 60_exceptions.md section 2: a BYTE that does not fit raises BufferOverflow and leaves the whole state as it
was before the command except `err` (decision D24 of the spec). -/
def Obligations.ByteThatDoesNotFitWritesOnlyErr : Prop :=
  ∀ (s : State) (b : Byte), RunOpen s → s.params.cap < s.buffer.fillBits + 8 →
    exec (.byte b) s = .next { s with err := some .bufferOverflow }

/-- 43_stream_decoder.md, EOS: in an open run, FormatError exactly when `value` is not 0, and nothing else
changes; else `done` is set and nothing else changes. `fillBits`, `skip` and `mode` play no part. -/
def Obligations.EosTestsTheRawBufferValue : Prop :=
  ∀ s : State, RunOpen s →
    (s.buffer.value ≠ 0 → exec .eos s = .next { s with err := some .formatError }) ∧
    (s.buffer.value = 0 → exec .eos s = .next { s with done := true })

/-- 43_stream_decoder.md, gating: while `err` is set or `done` is 1, BYTE and EOS change nothing (decision D20 of
the spec). -/
def Obligations.EndedRunIgnoresByteAndEos : Prop :=
  ∀ (s : State) (b : Byte), s.err ≠ none ∨ s.done = true →
    exec (.byte b) s = .next s ∧ exec .eos s = .next s

/-- 30_encoding.md section 6: the seven reserved selects are refused, each by its number; none is UNOP (decision
D14 of the spec). -/
def Obligations.ReservedSelectsAreRefused : Prop :=
  ∀ s : State, ∀ r ∈ [(Instr.reserved9, (9 : BitVec 4)), (.reservedA, 10), (.reservedB, 11), (.reservedC, 12),
      (.reservedD, 13), (.reservedE, 14), (.reservedF, 15)],
    exec r.1 s = .refused (.reservedSelect r.2) ∧ ∀ bus, decodeMicro r.2 bus = r.1

/-- 60_exceptions.md, FormatError: it is raised only by EOS, and only when the buffer holds a 1 bit; never during a
BYTE. -/
def Obligations.OnlyEosRaisesFormatError : Prop :=
  ∀ (i : Instr) (s t : State), exec i s = .next t → s.err ≠ some .formatError → t.err = some .formatError →
    i = .eos ∧ s.buffer.value ≠ 0 ∧ s.err = none

/-! ### Whole-machine rules -/

/-- 10_state.md section 2: `err`, `done` and `dirFlag` are sticky; no operation but RESET clears or overwrites
them. -/
def Obligations.OnlyResetClearsTheStatus : Prop :=
  ∀ (i : Instr) (s t : State), i ≠ .reset → exec i s = .next t →
    (∀ e, s.err = some e → t.err = some e) ∧ (s.done = true → t.done = true) ∧
    (s.scanner.dirFlag = true → t.scanner.dirFlag = true)

/-- 10_state.md R10, the column "Written by", over all operations: each register is written only by the
operations named for it. (`err` is written by a micro-operation that raises inside a command, so by BYTE and EOS; a
micro-operation on its own writes none, decision D24.) -/
def Obligations.RegistersAreWrittenOnlyByTheirOperations : Prop :=
  ∀ (i : Instr) (s t : State), exec i s = .next t →
    ((∀ b, i ≠ .byte b) → i ≠ .reset → (∀ n v, i ≠ .push n v) → (∀ n, i ≠ .pop n) → t.buffer = s.buffer) ∧
    ((∀ b, i ≠ .byte b) → i ≠ .reset → (∀ n, i ≠ .upd n) → t.checksum = s.checksum) ∧
    ((∀ b, i ≠ .byte b) → i ≠ .reset → i ≠ .scan → i.armMode = none → i.isPrologue = false →
      t.scanner = s.scanner) ∧
    ((∀ b, i ≠ .byte b) → i ≠ .reset → i ≠ .eos → t.err = s.err) ∧
    (i ≠ .reset → i ≠ .eos → t.done = s.done)

/-- 70_reset_and_hazards.md R142 item 1 and 20_memory.md R43: no operation changes the parameters or the inputs
that wait (the fields are the model's, log entries 2 and 6). -/
def Obligations.NoOperationChangesParametersOrInputs : Prop :=
  ∀ (i : Instr) (s t : State), exec i s = .next t → t.params = s.params ∧ t.port = s.port

/-- 70_reset_and_hazards.md, "The scanner runs once per BYTE and not after the drain": a BYTE that starts with
`skip` not 0 inspects nothing, even if it brings `skip` to 0. -/
def Obligations.ByteWithSkipPendingDoesNotScan : Prop :=
  ∀ (s : State) (b : Byte), s.scanner.skip ≠ 0 →
    ∃ t, exec (.byte b) s = .next t ∧ t.scanner.mode = s.scanner.mode ∧
      t.scanner.dirFlag = s.scanner.dirFlag

/-- 70_reset_and_hazards.md, "A field of value 0 is read twice". First read: in an open run, a BYTE that completes a
size or offset field of value 0 changes the mode, leaves `skip` at 0 and drains nothing. Second read: the next BYTE
inspects the same 20 zero bits under the new mode: as the prologue 0x00000, so by its triple in the table, with five
nibbles drained where it is a default code; or as a `len` of 0, with four nibbles drained. -/
def Obligations.ZeroFieldIsReadTwice : Prop :=
  ∀ (s : State) (b : Byte), RunOpen s → BufferSound s → s.scanner.skip = 0 →
    12 ≤ s.buffer.fillBits → s.buffer.fillBits + 8 ≤ s.params.cap →
    (s.buffer.value ||| (b.toNat <<< s.buffer.fillBits)) % 2 ^ 20 = 0 →
    (s.scanner.mode = .awaitingSize ∨ s.scanner.mode = .awaitingDirOffset) →
    ∃ t, exec (.byte b) s = .next t ∧ t.scanner.skip = 0 ∧
      (s.scanner.mode = .awaitingSize → t.scanner.mode = .scanning) ∧
      (s.scanner.mode = .awaitingDirOffset → t.scanner.mode = .awaitingExtendedLength) ∧
      t.buffer.fillBits = s.buffer.fillBits + 8 ∧ (peek20 t.buffer) = 0 ∧ t.checksum = s.checksum ∧
      (∀ b₂ : Byte, s.buffer.fillBits + 16 ≤ s.params.cap →
        ∃ u, exec (.byte b₂) t = .next u ∧
          (s.scanner.mode = .awaitingSize →
            u.scanner.mode = (lookup s.params.table 0).mode ∧
            u.scanner.skip.toNat + u.checksum.nibbleCount =
              (lookup s.params.table 0).skip.toNat + t.checksum.nibbleCount ∧
            (0 ∉ s.params.table.codes → u.scanner.mode = .scanning ∧ u.scanner.skip = 0 ∧
              u.checksum.nibbleCount = t.checksum.nibbleCount + 5)) ∧
          (s.scanner.mode = .awaitingDirOffset →
            u.scanner.mode = .scanning ∧ u.scanner.skip = 0 ∧
            u.checksum.nibbleCount = t.checksum.nibbleCount + 4))

/-- R113: the result of the run is the checksum and the size exactly when `done` is 1 and no error is recorded;
after an error it is the error kind and nothing else; otherwise there is none yet. -/
def Obligations.RunHasAResultOnlyWhenItEnded : Prop :=
  ∀ s : State,
    (s.err = none → s.done = true →
      ∃ byteSize half, runResult s = .ok s.checksum.crc byteSize half ∧
        byteSize = s.checksum.nibbleCount / 2 ∧ half.toNat = s.checksum.nibbleCount % 2) ∧
    (∀ e, s.err = some e → runResult s = .error e) ∧
    (RunOpen s → runResult s = .unfinished)

/-- 10_state.md section 3 and 30_encoding.md section 7: what the host reads on the status view, in every state:
every output from its register, and the codes of `err` and `mode` (decisions D9, D10 and D11 of the spec). -/
def Obligations.StatusViewReadsTheRegisters : Prop :=
  ∀ s : State,
    (statusView s).checksum = s.checksum.crc ∧ (statusView s).byteSize = s.checksum.nibbleCount / 2 ∧
    (statusView s).hasHalfByte.toNat = s.checksum.nibbleCount % 2 ∧ (statusView s).done = s.done ∧
    (statusView s).dirFlag = s.scanner.dirFlag ∧ (statusView s).dbgValue = s.buffer.value ∧
    (statusView s).dbgFillBits = s.buffer.fillBits ∧ (statusView s).dbgSkip = s.scanner.skip ∧
    (s.err = none → (statusView s).err = 0) ∧ (s.err = some .bufferOverflow → (statusView s).err = 1) ∧
    (s.err = some .bufferUnderflow → (statusView s).err = 2) ∧
    (s.err = some .formatError → (statusView s).err = 3) ∧
    (s.scanner.mode = .scanning → (statusView s).dbgMode = 0) ∧
    (s.scanner.mode = .awaitingSize → (statusView s).dbgMode = 1) ∧
    (s.scanner.mode = .awaitingShortLength → (statusView s).dbgMode = 2) ∧
    (s.scanner.mode = .awaitingExtendedLength → (statusView s).dbgMode = 3) ∧
    (s.scanner.mode = .awaitingDirOffset → (statusView s).dbgMode = 4)

/-! ### Invariants of every step, and whole runs -/

/-- R25 and R12: every step, command or micro-operation, keeps `value < 2^fillBits` and `fillBits <= CAP`. -/
def Obligations.EveryStepKeepsTheBufferSound : Prop :=
  ∀ s t : State, BufferSound s → step s = .next t → BufferSound t

/-- R26 and R18 for an assembled CORE: every step keeps the conditions between two commands: `fillBits` a
multiple of 4, no bits held while `skip` is not 0, at most 24 bits held, `err` and `done` never both. Every table
of the shape of R55 and every `CAP` from 32 on. -/
def Obligations.EveryStepKeepsTheConditionsBetweenCommands : Prop :=
  ∀ s t : State, BetweenCommands s → step s = .next t → BetweenCommands t

/-- 60_exceptions.md, R122 and R123: in an assembled CORE with `CAP >= 32` no step raises BufferOverflow or
BufferUnderflow, on any input; and no step stops. -/
def Obligations.AssembledCoreNeverOverflowsOrUnderflows : Prop :=
  ∀ s : State, BetweenCommands s → ∃ t, step s = .next t ∧
    (t.err = some .bufferOverflow → s.err = some .bufferOverflow) ∧
    (t.err = some .bufferUnderflow → s.err = some .bufferUnderflow)

/-- 43_stream_decoder.md, work per command: between two commands, one BYTE drains at most 8 nibbles. -/
def Obligations.ByteDrainsAtMostEightNibbles : Prop :=
  ∀ (s : State) (b : Byte), BetweenCommands s → ∃ t, exec (.byte b) s = .next t ∧
    s.checksum.nibbleCount ≤ t.checksum.nibbleCount ∧
    t.checksum.nibbleCount ≤ s.checksum.nibbleCount + 8

/-- 43_stream_decoder.md, what EOS accepts although the stream is incomplete, item (a): between two commands of an
open run, a stream that ends while nibbles are still owed succeeds. -/
def Obligations.TruncatedObjectIsAccepted : Prop :=
  ∀ s : State, BetweenCommands s → RunOpen s → s.scanner.skip ≠ 0 →
    exec .eos s = .next { s with done := true }

/-- 43_stream_decoder.md R116: every whole run, from whatever state, ends in success or in FormatError; for every
`CAP` from 32 on. -/
def Obligations.EveryRunEndsInSuccessOrFormatError : Prop :=
  ∀ (s : State) (bs : List Byte), 32 ≤ s.params.cap →
    ∃ t, run bs s = .next t ∧
      ((t.err = none ∧ t.done = true) ∨ (t.err = some .formatError ∧ t.done = false))

/-- 43_stream_decoder.md R116 and R106: a whole run is a function of its bytes and the table: two runs over the
same bytes and the same table, from any two states and with any two capacities of at least 32, end with the same
registers and the same result. -/
def Obligations.RunIsIndependentOfHistoryAndCapacity : Prop :=
  ∀ (s₁ s₂ : State) (bs : List Byte), 32 ≤ s₁.params.cap → 32 ≤ s₂.params.cap →
    s₁.params.table = s₂.params.table →
    ∃ t₁ t₂, run bs s₁ = .next t₁ ∧ run bs s₂ = .next t₂ ∧ t₁.buffer = t₂.buffer ∧ t₁.scanner = t₂.scanner ∧
      t₁.checksum = t₂.checksum ∧ t₁.err = t₂.err ∧ t₁.done = t₂.done ∧ runResult t₁ = runResult t₂

/-- 10_state.md R27 over a run: after RESET and the bytes of a stream, before EOS, the bits given are the bits
counted and the bits held. -/
def Obligations.RunAccountsForEveryBit : Prop :=
  ∀ (s : State) (bs : List Byte), 32 ≤ s.params.cap →
    ∃ t, execSeq (.reset :: bytesCommands bs) s = .next t ∧
      8 * bs.length = 4 * t.checksum.nibbleCount + t.buffer.fillBits

/-- 20_memory.md R33: after RESET and the bytes of a stream, the checksum is the fold of UPD's recurrence over the
first `nibbleCount` nibbles of the stream, low nibble of every byte first, and over nothing else. -/
def Obligations.ChecksumCoversTheStreamNibblesInOrder : Prop :=
  ∀ (s : State) (bs : List Byte), 32 ≤ s.params.cap →
    ∃ t, execSeq (.reset :: bytesCommands bs) s = .next t ∧
      t.checksum.nibbleCount ≤ 2 * bs.length ∧
      t.checksum.crc = ((nibblesOfBytes bs).take t.checksum.nibbleCount).foldl crcStep 0
end

