-- ==== Sys2Proof/Laws/State.lean ====
section
/-! SUPPORT. One lemma per field per register write, so that no proof unfolds a record update. -/

namespace Sys2Proof.Machine

variable (s : State)

@[simp] theorem State.setBuffer_buffer (b : BitBuffer) : (s.setBuffer b).buffer = b := rfl
@[simp] theorem State.setBuffer_scanner (b : BitBuffer) : (s.setBuffer b).scanner = s.scanner := rfl
@[simp] theorem State.setBuffer_checksum (b : BitBuffer) : (s.setBuffer b).checksum = s.checksum := rfl
@[simp] theorem State.setBuffer_err (b : BitBuffer) : (s.setBuffer b).err = s.err := rfl
@[simp] theorem State.setBuffer_done (b : BitBuffer) : (s.setBuffer b).done = s.done := rfl
@[simp] theorem State.setBuffer_params (b : BitBuffer) : (s.setBuffer b).params = s.params := rfl
@[simp] theorem State.setBuffer_result (b : BitBuffer) : (s.setBuffer b).result = s.result := rfl
@[simp] theorem State.setBuffer_port (b : BitBuffer) : (s.setBuffer b).port = s.port := rfl

@[simp] theorem State.setScanner_buffer (c : Scanner) : (s.setScanner c).buffer = s.buffer := rfl
@[simp] theorem State.setScanner_scanner (c : Scanner) : (s.setScanner c).scanner = c := rfl
@[simp] theorem State.setScanner_checksum (c : Scanner) : (s.setScanner c).checksum = s.checksum := rfl
@[simp] theorem State.setScanner_err (c : Scanner) : (s.setScanner c).err = s.err := rfl
@[simp] theorem State.setScanner_done (c : Scanner) : (s.setScanner c).done = s.done := rfl
@[simp] theorem State.setScanner_params (c : Scanner) : (s.setScanner c).params = s.params := rfl
@[simp] theorem State.setScanner_result (c : Scanner) : (s.setScanner c).result = s.result := rfl
@[simp] theorem State.setScanner_port (c : Scanner) : (s.setScanner c).port = s.port := rfl

@[simp] theorem State.setChecksum_buffer (c : Checksum) : (s.setChecksum c).buffer = s.buffer := rfl
@[simp] theorem State.setChecksum_scanner (c : Checksum) : (s.setChecksum c).scanner = s.scanner := rfl
@[simp] theorem State.setChecksum_checksum (c : Checksum) : (s.setChecksum c).checksum = c := rfl
@[simp] theorem State.setChecksum_err (c : Checksum) : (s.setChecksum c).err = s.err := rfl
@[simp] theorem State.setChecksum_done (c : Checksum) : (s.setChecksum c).done = s.done := rfl
@[simp] theorem State.setChecksum_params (c : Checksum) : (s.setChecksum c).params = s.params := rfl
@[simp] theorem State.setChecksum_result (c : Checksum) : (s.setChecksum c).result = s.result := rfl
@[simp] theorem State.setChecksum_port (c : Checksum) : (s.setChecksum c).port = s.port := rfl

@[simp] theorem State.setErr_buffer (e : Option ErrorKind) : (s.setErr e).buffer = s.buffer := rfl
@[simp] theorem State.setErr_scanner (e : Option ErrorKind) : (s.setErr e).scanner = s.scanner := rfl
@[simp] theorem State.setErr_checksum (e : Option ErrorKind) : (s.setErr e).checksum = s.checksum := rfl
@[simp] theorem State.setErr_err (e : Option ErrorKind) : (s.setErr e).err = e := rfl
@[simp] theorem State.setErr_done (e : Option ErrorKind) : (s.setErr e).done = s.done := rfl
@[simp] theorem State.setErr_params (e : Option ErrorKind) : (s.setErr e).params = s.params := rfl
@[simp] theorem State.setErr_result (e : Option ErrorKind) : (s.setErr e).result = s.result := rfl
@[simp] theorem State.setErr_port (e : Option ErrorKind) : (s.setErr e).port = s.port := rfl

@[simp] theorem State.setDone_buffer (d : Bool) : (s.setDone d).buffer = s.buffer := rfl
@[simp] theorem State.setDone_scanner (d : Bool) : (s.setDone d).scanner = s.scanner := rfl
@[simp] theorem State.setDone_checksum (d : Bool) : (s.setDone d).checksum = s.checksum := rfl
@[simp] theorem State.setDone_err (d : Bool) : (s.setDone d).err = s.err := rfl
@[simp] theorem State.setDone_done (d : Bool) : (s.setDone d).done = d := rfl
@[simp] theorem State.setDone_params (d : Bool) : (s.setDone d).params = s.params := rfl
@[simp] theorem State.setDone_result (d : Bool) : (s.setDone d).result = s.result := rfl
@[simp] theorem State.setDone_port (d : Bool) : (s.setDone d).port = s.port := rfl

@[simp] theorem State.setResult_buffer (r : MicroResult) : (s.setResult r).buffer = s.buffer := rfl
@[simp] theorem State.setResult_scanner (r : MicroResult) : (s.setResult r).scanner = s.scanner := rfl
@[simp] theorem State.setResult_checksum (r : MicroResult) : (s.setResult r).checksum = s.checksum := rfl
@[simp] theorem State.setResult_err (r : MicroResult) : (s.setResult r).err = s.err := rfl
@[simp] theorem State.setResult_done (r : MicroResult) : (s.setResult r).done = s.done := rfl
@[simp] theorem State.setResult_params (r : MicroResult) : (s.setResult r).params = s.params := rfl
@[simp] theorem State.setResult_result (r : MicroResult) : (s.setResult r).result = r := rfl
@[simp] theorem State.setResult_port (r : MicroResult) : (s.setResult r).port = s.port := rfl

@[simp] theorem State.setPort_buffer (p : List PortWord) : (s.setPort p).buffer = s.buffer := rfl
@[simp] theorem State.setPort_scanner (p : List PortWord) : (s.setPort p).scanner = s.scanner := rfl
@[simp] theorem State.setPort_checksum (p : List PortWord) : (s.setPort p).checksum = s.checksum := rfl
@[simp] theorem State.setPort_err (p : List PortWord) : (s.setPort p).err = s.err := rfl
@[simp] theorem State.setPort_done (p : List PortWord) : (s.setPort p).done = s.done := rfl
@[simp] theorem State.setPort_params (p : List PortWord) : (s.setPort p).params = s.params := rfl
@[simp] theorem State.setPort_result (p : List PortWord) : (s.setPort p).result = s.result := rfl
@[simp] theorem State.setPort_port (p : List PortWord) : (s.setPort p).port = p := rfl

@[simp] theorem State.resetWith_buffer (p : Params) : (State.resetWith p).buffer = ⟨0, 0⟩ := rfl
@[simp] theorem State.resetWith_scanner (p : Params) : (State.resetWith p).scanner = ⟨.scanning, 0, false⟩ := rfl
@[simp] theorem State.resetWith_checksum (p : Params) : (State.resetWith p).checksum = ⟨0, 0⟩ := rfl
@[simp] theorem State.resetWith_err (p : Params) : (State.resetWith p).err = none := rfl
@[simp] theorem State.resetWith_done (p : Params) : (State.resetWith p).done = false := rfl
@[simp] theorem State.resetWith_params (p : Params) : (State.resetWith p).params = p := rfl
@[simp] theorem State.resetWith_result (p : Params) : (State.resetWith p).result = .none := rfl
@[simp] theorem State.resetWith_port (p : Params) : (State.resetWith p).port = [] := rfl

@[simp] theorem raise_buffer (e : ErrorKind) : (raise e s).buffer = s.buffer := rfl
@[simp] theorem raise_scanner (e : ErrorKind) : (raise e s).scanner = s.scanner := rfl
@[simp] theorem raise_checksum (e : ErrorKind) : (raise e s).checksum = s.checksum := rfl
@[simp] theorem raise_err (e : ErrorKind) : (raise e s).err = some e := rfl
@[simp] theorem raise_done (e : ErrorKind) : (raise e s).done = s.done := rfl
@[simp] theorem raise_params (e : ErrorKind) : (raise e s).params = s.params := rfl
@[simp] theorem raise_result (e : ErrorKind) : (raise e s).result = s.result := rfl
@[simp] theorem raise_port (e : ErrorKind) : (raise e s).port = s.port := rfl

end Sys2Proof.Machine
end

