-- ==== Sys2Proof/Laws/Buffer.lean ====
section
/-! SUPPORT. What PUSH, POP and PEEK can do, in natural-number terms (40_bit_buffer.md R71 to R74), and that they
keep the buffer sound (10_state.md R25). -/

namespace Sys2Proof.Machine

/-- Masking is taking the remainder, for every width. -/
theorem and_mask (v n : Nat) : v &&& mask n = v % 2 ^ n := Nat.and_two_pow_sub_one_eq_mod v n

/-- PEEK is a remainder (R74). -/
theorem peek_eq_mod (b : BitBuffer) (n : Nat) : b.peek n = b.value % 2 ^ n := and_mask b.value n

theorem peek20_toNat (b : BitBuffer) : (peek20 b).toNat = b.value % 2 ^ 20 := by
  simp [peek20, peek_eq_mod]

theorem peek8_toNat (b : BitBuffer) : (peek8 b).toNat = b.value % 2 ^ 8 := by
  simp [peek8, peek_eq_mod]

/-- PUSH raises where the bits do not fit. -/
theorem push_raises {cap n v : Nat} {b : BitBuffer} (h : cap < b.fillBits + n) :
    b.push cap n v = .error .bufferOverflow := if_pos h

/-- PUSH succeeds where they fit, and everything it then does (R71). -/
theorem push_eq {cap n v : Nat} {b : BitBuffer} (h : b.fillBits + n ≤ cap) :
    b.push cap n v = .ok ⟨b.value ||| ((v % 2 ^ n) <<< b.fillBits), b.fillBits + n⟩ := by
  rw [BitBuffer.push, if_neg (Nat.not_lt.mpr h), and_mask]

theorem push_succeeds {cap n v : Nat} {b : BitBuffer} (h : b.fillBits + n ≤ cap) :
    ∃ c, b.push cap n v = .ok c ∧ c.value = b.value ||| ((v % 2 ^ n) <<< b.fillBits) ∧
      c.fillBits = b.fillBits + n := ⟨_, push_eq h, rfl, rfl⟩

/-- PUSH either raises or succeeds, never both (R71). -/
theorem push_cases {cap n v : Nat} {b c : BitBuffer} (h : b.push cap n v = .ok c) :
    b.fillBits + n ≤ cap ∧ c.value = b.value ||| ((v % 2 ^ n) <<< b.fillBits) ∧ c.fillBits = b.fillBits + n := by
  by_cases hle : b.fillBits + n ≤ cap
  · rw [push_eq hle] at h
    cases h
    exact ⟨hle, rfl, rfl⟩
  · rw [push_raises (by omega)] at h
    cases h

/-- POP raises where fewer bits are held. -/
theorem pop_raises {n : Nat} {b : BitBuffer} (h : b.fillBits < n) : b.pop n = .error .bufferUnderflow := if_pos h

/-- POP succeeds where enough are held, and everything it then does (R72). -/
theorem pop_eq {n : Nat} {b : BitBuffer} (h : n ≤ b.fillBits) :
    b.pop n = .ok (b.peek n, ⟨b.value / 2 ^ n, b.fillBits - n⟩) := by
  rw [BitBuffer.pop, if_neg (Nat.not_lt.mpr h), Nat.shiftRight_eq_div_pow]
  rfl

theorem pop_succeeds {n : Nat} {b : BitBuffer} (h : n ≤ b.fillBits) :
    ∃ c, b.pop n = .ok (b.peek n, c) ∧ c.value = b.value / 2 ^ n ∧ c.fillBits = b.fillBits - n :=
  ⟨_, pop_eq h, rfl, rfl⟩

/-- POP either raises or succeeds, never both (R72). -/
theorem pop_cases {n r : Nat} {b c : BitBuffer} (h : b.pop n = .ok (r, c)) :
    n ≤ b.fillBits ∧ r = b.peek n ∧ c.value = b.value / 2 ^ n ∧ c.fillBits = b.fillBits - n := by
  by_cases hle : n ≤ b.fillBits
  · rw [pop_eq hle] at h
    cases h
    exact ⟨hle, rfl, rfl, rfl⟩
  · rw [pop_raises (by omega)] at h
    cases h

/-- A PUSH that succeeds keeps `value < 2^fillBits` (R25). -/
theorem push_below_fill {cap n v : Nat} {b c : BitBuffer}
    (hb : b.value < 2 ^ b.fillBits) (h : b.push cap n v = .ok c) : c.value < 2 ^ c.fillBits := by
  obtain ⟨_, hv, hf⟩ := push_cases h
  rw [hv, hf]
  apply Nat.or_lt_two_pow
  · exact Nat.lt_of_lt_of_le hb (Nat.pow_le_pow_right (by decide) (by omega))
  · rw [Nat.shiftLeft_eq, Nat.add_comm, Nat.pow_add]
    exact Nat.mul_lt_mul_of_pos_right (Nat.mod_lt _ (Nat.two_pow_pos n)) (Nat.two_pow_pos _)

/-- A POP that succeeds keeps `value < 2^fillBits` (R25). -/
theorem pop_below_fill {n r : Nat} {b c : BitBuffer} (hb : b.value < 2 ^ b.fillBits)
    (h : b.pop n = .ok (r, c)) : c.value < 2 ^ c.fillBits := by
  obtain ⟨hle, _, hv, hf⟩ := pop_cases h
  rw [hv, hf, Nat.div_lt_iff_lt_mul (Nat.two_pow_pos n), ← Nat.pow_add, Nat.sub_add_cancel hle]
  exact hb

end Sys2Proof.Machine
end

