-- ==== Sys2Proof/Laws/Scanner.lean ====
section
/-! SUPPORT. What SCAN and the prologue operations can do (41_scanner.md R80 to R87): they write the scanner and
nothing else. -/

namespace Sys2Proof.Machine

/-- SCAN writes the scanner and nothing else (R81). -/
theorem scan_writes_scanner (s : State) : scan s = s.setScanner (scan s).scanner := by
  unfold scan armScanning armAwaitingSize armAwaitingShortLength armAwaitingExtendedLength armAwaitingDirOffset
  split
  · rfl
  · split <;> split <;> rfl

@[simp] theorem scan_buffer (s : State) : (scan s).buffer = s.buffer := by rw [scan_writes_scanner]; rfl
@[simp] theorem scan_checksum (s : State) : (scan s).checksum = s.checksum := by rw [scan_writes_scanner]; rfl
@[simp] theorem scan_err (s : State) : (scan s).err = s.err := by rw [scan_writes_scanner]; rfl
@[simp] theorem scan_done (s : State) : (scan s).done = s.done := by rw [scan_writes_scanner]; rfl
@[simp] theorem scan_params (s : State) : (scan s).params = s.params := by rw [scan_writes_scanner]; rfl
@[simp] theorem scan_result (s : State) : (scan s).result = s.result := by rw [scan_writes_scanner]; rfl
@[simp] theorem scan_port (s : State) : (scan s).port = s.port := by rw [scan_writes_scanner]; rfl

/-- The guard of R81. -/
theorem scan_of_skip_ne_zero {s : State} (h : s.scanner.skip ≠ 0) : scan s = s := if_pos h

/-- The arm rows that are not selected (log entry 10). -/
theorem whenSelected_of_not {m : Mode} {arm : State → State} {s : State}
    (h : ¬(s.scanner.skip = 0 ∧ s.scanner.mode = m)) : whenSelected m arm s = s := if_neg h

/-- The arm row that is selected. -/
theorem whenSelected_of {m : Mode} {arm : State → State} {s : State} (hskip : s.scanner.skip = 0)
    (hmode : s.scanner.mode = m) : whenSelected m arm s = arm s := if_pos ⟨hskip, hmode⟩

/-! Each arm with its field buffered, and without (R82 to R87). -/

theorem armScanning_of_le {s : State} (h : 20 ≤ s.buffer.fillBits) :
    armScanning s = applyEntry (lookup s.params.table (peek20 s.buffer)) s := if_pos h

theorem armScanning_of_lt {s : State} (h : s.buffer.fillBits < 20) : armScanning s = s :=
  if_neg (Nat.not_le.mpr h)

theorem armAwaitingSize_of_le {s : State} (h : 20 ≤ s.buffer.fillBits) :
    armAwaitingSize s = setPhase .scanning (peek20 s.buffer) s := if_pos h

theorem armAwaitingSize_of_lt {s : State} (h : s.buffer.fillBits < 20) : armAwaitingSize s = s :=
  if_neg (Nat.not_le.mpr h)

theorem armAwaitingShortLength_of_le {s : State} (h : 8 ≤ s.buffer.fillBits) :
    armAwaitingShortLength s = setPhase .scanning (shortLengthSkip (peek8 s.buffer)) s := if_pos h

theorem armAwaitingShortLength_of_lt {s : State} (h : s.buffer.fillBits < 8) : armAwaitingShortLength s = s :=
  if_neg (Nat.not_le.mpr h)

theorem armAwaitingExtendedLength_of_le {s : State} (h : 8 ≤ s.buffer.fillBits) :
    armAwaitingExtendedLength s = setPhase .scanning (extendedLengthSkip (peek8 s.buffer)) s := if_pos h

theorem armAwaitingExtendedLength_of_lt {s : State} (h : s.buffer.fillBits < 8) : armAwaitingExtendedLength s = s :=
  if_neg (Nat.not_le.mpr h)

theorem armAwaitingDirOffset_of_le {s : State} (h : 20 ≤ s.buffer.fillBits) :
    armAwaitingDirOffset s = setPhase .awaitingExtendedLength (peek20 s.buffer) s := if_pos h

theorem armAwaitingDirOffset_of_lt {s : State} (h : s.buffer.fillBits < 20) : armAwaitingDirOffset s = s :=
  if_neg (Nat.not_le.mpr h)

/-- SCAN with `skip` at 0 is the arm of the mode (R81). -/
theorem scan_of_skip_zero {s : State} (h : s.scanner.skip = 0) :
    scan s = match s.scanner.mode with
      | .scanning => armScanning s
      | .awaitingSize => armAwaitingSize s
      | .awaitingShortLength => armAwaitingShortLength s
      | .awaitingExtendedLength => armAwaitingExtendedLength s
      | .awaitingDirOffset => armAwaitingDirOffset s := if_neg (not_not.mpr h)

/-- Where a prologue is due (log entry 11). -/
theorem prologueDue_iff {s : State} :
    prologueDue s = true ↔
      s.scanner.skip = 0 ∧ s.scanner.mode = .scanning ∧ 20 ≤ s.buffer.fillBits := by
  simp only [prologueDue, Bool.and_eq_true, beq_iff_eq, decide_eq_true_eq, and_assoc]
  exact Iff.rfl

theorem takePrologue_of_due {e : Entry} {s : State} (h : prologueDue s = true) :
    takePrologue e s = .next (applyEntry e s) := by rw [takePrologue, if_pos h]

theorem takePrologue_of_not_due {e : Entry} {s : State} (h : prologueDue s = false) :
    takePrologue e s = .next s := by rw [takePrologue, h]; rfl

/-- Every literal skip of a fixed-skip code is at least 7 (R55 item 5). -/
theorem seven_le_nibbles (k : FixSkip) : 7 ≤ k.nibbles.toNat := by cases k <;> decide

/-- Every triple a table or its default can give has a skip of at least 5 (R82, corner cases). -/
theorem five_le_entry_skip (pt : PrologueTable) (n : PrologueName) : 5 ≤ (entryOf pt n).skip.toNat := by
  cases n with
  | fix i => exact Nat.le_trans (by decide) (seven_le_nibbles pt.fix[i].skip)
  | size i => simp [entryOf, sizeEntry]
  | ascic i => simp [entryOf, ascicEntry]
  | dir => simp [entryOf, dirEntry]
  | default => simp [entryOf, defaultEntry]

/-- No triple leads to `AwaitingExtendedLength` (R55 item 6), and only the directory's leads to
`AwaitingDirOffset`, with skip 8. -/
theorem entry_mode (pt : PrologueTable) (n : PrologueName) :
    (entryOf pt n).mode ≠ .awaitingExtendedLength ∧
      ((entryOf pt n).mode = .awaitingDirOffset → (entryOf pt n).skip = 8) := by
  cases n <;> simp [entryOf, sizeEntry, ascicEntry, dirEntry, fixEntry, defaultEntry]

theorem shortLengthSkip_toNat (len : Byte) : (shortLengthSkip len).toNat = 2 + 2 * len.toNat := by
  have := len.isLt
  simp only [shortLengthSkip, BitVec.toNat_ofNat]; omega

theorem extendedLengthSkip_toNat (len : Byte) : (extendedLengthSkip len).toNat = 4 + 2 * len.toNat := by
  have := len.isLt
  simp only [extendedLengthSkip, BitVec.toNat_ofNat]; omega

/-- The operation of each row of the table, where a prologue is due or not. -/
theorem exec_prologue_instr (c : Field20) (n : PrologueName) (s : State) :
    exec (n.instr c) s = takePrologue (entryOf s.params.table n) s := by
  cases n with
  | size i => fin_cases i <;> rfl
  | ascic i => fin_cases i <;> rfl
  | dir => rfl
  | fix i => fin_cases i <;> rfl
  | default => rfl

end Sys2Proof.Machine
end

