-- ==== Sys2Proof/Laws/Drain.lean ====
section
/-! SUPPORT. What the drain loop and BYTE can do (43_stream_decoder.md R107, R110). -/

namespace Sys2Proof.Machine

/-- One iteration with four bits held: everything it does (R110). -/
theorem drainOne_succeeds {s : State} (h : 4 ≤ s.buffer.fillBits) :
    ∃ b, s.buffer.pop 4 = .ok (s.buffer.peek 4, b) ∧
      b.value = s.buffer.value / 2 ^ 4 ∧ b.fillBits = s.buffer.fillBits - 4 ∧
      drainOne s = .ok (((s.setBuffer b).setChecksum (s.checksum.update (nibbleOf (s.buffer.peek 4)))).setScanner
        { s.scanner with skip := s.scanner.skip - 1 }) := by
  obtain ⟨b, hb, hv, hf⟩ := pop_succeeds h
  exact ⟨b, hb, hv, hf, by simp [drainOne, hb]⟩

theorem drainDue_iff {s : State} :
    drainDue s = true ↔ s.scanner.skip ≠ 0 ∧ 4 ≤ s.buffer.fillBits := by
  simp only [drainDue, Bool.and_eq_true, decide_eq_true_eq]
  exact Iff.rfl

/-- What one iteration keeps and what it changes, for a loop that is due. -/
theorem drainOne_of_due {s : State} (h : drainDue s = true) :
    ∃ t, drainOne s = .ok t ∧ t.buffer.value = s.buffer.value / 2 ^ 4 ∧
      t.buffer.fillBits = s.buffer.fillBits - 4 ∧
      t.scanner.skip.toNat = s.scanner.skip.toNat - 1 ∧ t.scanner.mode = s.scanner.mode ∧
      t.scanner.dirFlag = s.scanner.dirFlag ∧
      t.checksum = s.checksum.update (nibbleOf (s.buffer.peek 4)) ∧
      t.err = s.err ∧ t.done = s.done ∧ t.params = s.params ∧ t.result = s.result ∧ t.port = s.port := by
  obtain ⟨hs, hf⟩ := drainDue_iff.mp h
  obtain ⟨b, _, hv, hb, ho⟩ := drainOne_succeeds hf
  refine ⟨_, ho, by simpa using hv, by simpa using hb, ?_, rfl, rfl, rfl, rfl, rfl, rfl, rfl, rfl⟩
  have h1 : s.scanner.skip.toNat ≠ 0 := fun h0 => hs (BitVec.eq_of_toNat_eq h0)
  have h2 := s.scanner.skip.isLt
  have h3 : (1 : Field20).toNat = 1 := rfl
  simp only [State.setScanner_scanner, BitVec.toNat_sub, h3]
  omega

/-- The loop unfolds by one iteration where it is due and fuel is left. -/
theorem drainLoop_succ_of_due {n : Nat} {s t : State} (h : drainDue s = true) (ht : drainOne s = .ok t) :
    drainLoop (n + 1) s = drainLoop n t := by simp [drainLoop, h, ht]

theorem drainLoop_of_not_due {n : Nat} {s : State} (h : drainDue s = false) : drainLoop n s = s := by
  cases n <;> simp [drainLoop, h]

/-- Everything the loop does, by natural-number accounts: `k` iterations, the bits they remove, and the registers
it never writes. With fuel for every nibble held it ends only where it is not due. -/
theorem drainLoop_account (n : Nat) (s : State) :
    ∃ k ≤ n, (drainLoop n s).buffer.fillBits + 4 * k = s.buffer.fillBits ∧
      (drainLoop n s).buffer.value = s.buffer.value / 2 ^ (4 * k) ∧
      (drainLoop n s).scanner.skip.toNat + k = s.scanner.skip.toNat ∧
      (drainLoop n s).checksum.nibbleCount = s.checksum.nibbleCount + k ∧
      (drainLoop n s).scanner.mode = s.scanner.mode ∧ (drainLoop n s).scanner.dirFlag = s.scanner.dirFlag ∧
      (drainLoop n s).err = s.err ∧ (drainLoop n s).done = s.done ∧ (drainLoop n s).params = s.params ∧
      (drainLoop n s).result = s.result ∧ (drainLoop n s).port = s.port ∧
      (s.buffer.fillBits < 4 * (n + 1) → drainDue (drainLoop n s) = false) := by
  induction n generalizing s with
  | zero =>
    refine ⟨0, le_rfl, by simp [drainLoop], by simp [drainLoop], by simp [drainLoop], by simp [drainLoop],
      rfl, rfl, rfl, rfl, rfl, rfl, rfl, fun h => ?_⟩
    rw [Bool.eq_false_iff]
    intro hd
    have := (drainDue_iff.mp hd).2
    simp only [drainLoop] at this
    omega
  | succ n ih =>
    by_cases hd : drainDue s = true
    · obtain ⟨t, ht, hv, hf, hsk, hm, hdir, hc, he, hdn, hp, hr, hpt⟩ := drainOne_of_due hd
      obtain ⟨k, hk, a1, a2, a3, a4, a5, a6, a7, a8, a9, a10, a11, a12⟩ := ih t
      obtain ⟨d1, d2⟩ := drainDue_iff.mp hd
      have d1' : s.scanner.skip.toNat ≠ 0 := fun h0 => d1 (BitVec.eq_of_toNat_eq h0)
      rw [drainLoop_succ_of_due hd ht]
      refine ⟨k + 1, by omega, by omega, ?_, by omega, ?_, by rw [a5, hm], by rw [a6, hdir], by rw [a7, he],
        by rw [a8, hdn], by rw [a9, hp], by rw [a10, hr], by rw [a11, hpt], fun h => a12 (by omega)⟩
      · rw [a2, hv, Nat.div_div_eq_div_mul, ← Nat.pow_add, show 4 + 4 * k = 4 * (k + 1) by omega]
      · rw [a4, hc]; simp only [Checksum.update]; omega
    · rw [Bool.not_eq_true] at hd
      rw [drainLoop_of_not_due hd]
      exact ⟨0, by omega, by omega, by simp, by omega, by omega, rfl, rfl, rfl, rfl, rfl, rfl, rfl, fun _ => hd⟩

/-- The same for the whole drain, which always has fuel enough (R110, R159). -/
theorem drain_account (s : State) :
    ∃ k ≤ s.buffer.fillBits / 4, (drain s).buffer.fillBits + 4 * k = s.buffer.fillBits ∧
      (drain s).buffer.value = s.buffer.value / 2 ^ (4 * k) ∧
      (drain s).scanner.skip.toNat + k = s.scanner.skip.toNat ∧
      (drain s).checksum.nibbleCount = s.checksum.nibbleCount + k ∧
      (drain s).scanner.mode = s.scanner.mode ∧ (drain s).scanner.dirFlag = s.scanner.dirFlag ∧
      (drain s).err = s.err ∧ (drain s).done = s.done ∧ (drain s).params = s.params ∧
      (drain s).result = s.result ∧ (drain s).port = s.port ∧
      ((drain s).scanner.skip = 0 ∨ (drain s).buffer.fillBits < 4) := by
  obtain ⟨k, hk, a1, a2, a3, a4, a5, a6, a7, a8, a9, a10, a11, a12⟩ := drainLoop_account (s.buffer.rem / 4) s
  refine ⟨k, hk, a1, a2, a3, a4, a5, a6, a7, a8, a9, a10, a11, ?_⟩
  have hnd := a12 (by simp only [BitBuffer.rem]; omega)
  by_contra hcon
  push Not at hcon
  exact absurd (drainDue_iff.mpr hcon) (by rw [drain] at *; simp [hnd])

/-- An accepted BYTE that fits: the PUSH, the SCAN where `skip` is 0, the drain (R107). -/
theorem ingest_of_push {s : State} {b : Byte} {buf : BitBuffer}
    (h : s.buffer.push s.params.cap 8 (byteOperand b) = .ok buf) :
    ingest b s = drain (if s.scanner.skip = 0 then scan (s.setBuffer buf) else s.setBuffer buf) := by
  rw [ingest, h]
  rfl

/-- An accepted BYTE that does not fit stops at the PUSH (R107, R126). -/
theorem ingest_of_overflow {s : State} {b : Byte} (h : s.params.cap < s.buffer.fillBits + 8) :
    ingest b s = raise .bufferOverflow s := by
  simp [ingest, push_raises h]

end Sys2Proof.Machine
end

