-- ==== Sys2Proof/Laws/Table.lean ====
section
/-! SUPPORT. The prologue table as rows: its codes, and what the lookup answers on them and off them
(30_encoding.md R55, R56). -/

namespace Sys2Proof

/-- The rows' codes are the table's 22 codes, in order. -/
theorem prologueRows_codes (pt : PrologueTable) : (prologueRows pt).map Prod.fst = pt.codes := by
  have h9 : ∀ (α : Type) (v : Vector α 9),
      v.toList = [v[0], v[1], v[2], v[3], v[4], v[5], v[6], v[7], v[8]] := by
    intro α v
    apply List.ext_getElem (by simp)
    intro i h1 h2
    have : i < 9 := by simpa using h1
    interval_cases i <;> simp
  have h3 : pt.ascic.toList = [pt.ascic[0], pt.ascic[1], pt.ascic[2]] := by
    apply List.ext_getElem (by simp)
    intro i h1 h2
    have : i < 3 := by simpa using h1
    interval_cases i <;> simp
  rw [PrologueTable.codes, h9, h9, h3]
  rfl

/-- In a list of rows with distinct keys, a search by key finds the row that has it. -/
theorem find_row_of_mem {β : Type} {l : List (Field20 × β)} (hd : (l.map Prod.fst).Nodup) {c : Field20} {n : β}
    (hm : (c, n) ∈ l) : l.find? (fun r => r.1 == c) = some (c, n) := by
  induction l with
  | nil => simp at hm
  | cons r l ih =>
    simp only [List.map_cons, List.nodup_cons] at hd
    rcases List.mem_cons.mp hm with rfl | h
    · simp
    · have hne : r.1 ≠ c := fun he => hd.1 (he ▸ List.mem_map_of_mem (f := Prod.fst) h)
      rw [List.find?_cons_of_neg (by simpa using hne)]
      exact ih hd.2 h

/-- The lookup on a code of the table is its row (R56). -/
theorem classify_of_mem {pt : PrologueTable} (hd : pt.CodesDistinct) {c : Field20} {n : PrologueName}
    (hm : (c, n) ∈ prologueRows pt) : classify pt c = n := by
  have := find_row_of_mem (by rw [prologueRows_codes]; exact hd) hm
  simp [classify, this]

/-- The lookup on any other code is the default (R56, R89). -/
theorem classify_of_not_mem {pt : PrologueTable} {c : Field20} (h : c ∉ pt.codes) : classify pt c = .default := by
  have : (prologueRows pt).find? (fun r => r.1 == c) = none := by
    rw [List.find?_eq_none]
    intro r hr he
    rw [← prologueRows_codes, ← (by simpa using he : r.1 = c)] at h
    exact h (List.mem_map_of_mem (f := Prod.fst) hr)
  simp [classify, this]

theorem mem_rows_size (pt : PrologueTable) (i : Fin 9) : (pt.size[i], .size i) ∈ prologueRows pt := by
  fin_cases i <;> simp [prologueRows]

theorem mem_rows_ascic (pt : PrologueTable) (i : Fin 3) : (pt.ascic[i], .ascic i) ∈ prologueRows pt := by
  fin_cases i <;> simp [prologueRows]

theorem mem_rows_dir (pt : PrologueTable) : (pt.dir, .dir) ∈ prologueRows pt := by simp [prologueRows]

theorem mem_rows_fix (pt : PrologueTable) (i : Fin 9) : (pt.fix[i].code, .fix i) ∈ prologueRows pt := by
  fin_cases i <;> simp [prologueRows]

end Sys2Proof
end

