-- ==== Sys2Proof/Laws/Exec.lean ====
section
/-! SUPPORT. `exec` of the micro-operations and commands that have two outcomes, one lemma per outcome; and the
commands' effects once they are accepted (43_stream_decoder.md R107 to R112). -/

namespace Sys2Proof.Machine

theorem exec_push_of_ok {s : State} {n : Nat} {v : Nat} {c : BitBuffer}
    (h : s.buffer.push s.params.cap n v = .ok c) :
    exec (.push n v) s = .next ((s.setBuffer c).setResult .ok) := by simp only [exec, execPush, h]

theorem exec_push_of_error {s : State} {n : Nat} {v : Nat} {e : ErrorKind}
    (h : s.buffer.push s.params.cap n v = .error e) :
    exec (.push n v) s = .next (s.setResult (.error e)) := by simp only [exec, execPush, h]

theorem exec_pop_of_ok {s : State} {n : Nat} {r : Nat} {c : BitBuffer} (h : s.buffer.pop n = .ok (r, c)) :
    exec (.pop n) s = .next ((s.setBuffer c).setResult (.rdata r)) := by simp only [exec, execPop, h]

theorem exec_pop_of_error {s : State} {n : Nat} {e : ErrorKind} (h : s.buffer.pop n = .error e) :
    exec (.pop n) s = .next (s.setResult (.error e)) := by simp only [exec, execPop, h]

/-- The gate of R112. -/
theorem ended_eq_false_iff {s : State} : s.ended = false ↔ s.err = none ∧ s.done = false := by
  simp [State.ended]

theorem exec_byte_of_open {s : State} {b : Byte} (h : RunOpen s) : exec (.byte b) s = .next (ingest b s) := by
  simp only [exec, execByte, ended_eq_false_iff.mpr h]; rfl

theorem exec_byte_of_ended {s : State} {b : Byte} (h : s.ended = true) : exec (.byte b) s = .next s := by
  simp only [exec, execByte, h]; rfl

theorem exec_eos_of_open {s : State} (h : RunOpen s) : exec .eos s = .next (endStream s) := by
  simp only [exec, execEos, ended_eq_false_iff.mpr h]; rfl

theorem exec_eos_of_ended {s : State} (h : s.ended = true) : exec .eos s = .next s := by
  simp only [exec, execEos, h]; rfl

/-- The state the drain of an accepted BYTE starts from: the byte pushed, and a SCAN where `skip` is 0 (R107). -/
def beforeDrain (buf : BitBuffer) (s : State) : State :=
  if s.scanner.skip = 0 then scan (s.setBuffer buf) else s.setBuffer buf

theorem beforeDrain_frame (buf : BitBuffer) (s : State) :
    (beforeDrain buf s).buffer = buf ∧ (beforeDrain buf s).checksum = s.checksum ∧
      (beforeDrain buf s).err = s.err ∧ (beforeDrain buf s).done = s.done ∧
      (beforeDrain buf s).params = s.params ∧ (beforeDrain buf s).result = s.result ∧
      (beforeDrain buf s).port = s.port := by
  unfold beforeDrain
  split <;> simp

/-- Everything an accepted BYTE that fits does, by natural-number accounts: the PUSH, then the drain of `k`
nibbles from the state `beforeDrain` (R107, R110). -/
theorem ingest_account {s : State} (b : Byte)
    (hf : s.buffer.fillBits + 8 ≤ s.params.cap) :
    ∃ buf k, s.buffer.push s.params.cap 8 (byteOperand b) = .ok buf ∧
      buf.value = s.buffer.value ||| (b.toNat <<< s.buffer.fillBits) ∧
      buf.fillBits = s.buffer.fillBits + 8 ∧
      ingest b s = drain (beforeDrain buf s) ∧
      (ingest b s).buffer.fillBits + 4 * k = s.buffer.fillBits + 8 ∧
      (ingest b s).buffer.value = buf.value / 2 ^ (4 * k) ∧
      (ingest b s).scanner.skip.toNat + k = (beforeDrain buf s).scanner.skip.toNat ∧
      (ingest b s).checksum.nibbleCount = s.checksum.nibbleCount + k ∧
      (ingest b s).scanner.mode = (beforeDrain buf s).scanner.mode ∧
      (ingest b s).scanner.dirFlag = (beforeDrain buf s).scanner.dirFlag ∧
      (ingest b s).err = s.err ∧ (ingest b s).done = s.done ∧ (ingest b s).params = s.params ∧
      (ingest b s).result = s.result ∧ (ingest b s).port = s.port ∧
      ((ingest b s).scanner.skip = 0 ∨ (ingest b s).buffer.fillBits < 4) := by
  obtain ⟨buf, hpush, hv, hfill⟩ := push_succeeds (v := byteOperand b) hf
  obtain ⟨f1, f2, f3, f4, f5, f6, f7⟩ := beforeDrain_frame buf s
  obtain ⟨k, _, a1, a2, a3, a4, a5, a6, a7, a8, a9, a10, a11, a12⟩ := drain_account (beforeDrain buf s)
  have hi : ingest b s = drain (beforeDrain buf s) := ingest_of_push hpush
  have hb : byteOperand b % 2 ^ 8 = b.toNat := Nat.mod_eq_of_lt b.isLt
  rw [hb] at hv
  rw [f1] at a1 a2
  refine ⟨buf, k, hpush, hv, hfill, hi, ?_⟩
  rw [hi]
  exact ⟨by omega, a2, a3, by rw [a4, f2], a5, a6, a7.trans f3, a8.trans f4, a9.trans f5, a10.trans f6,
    a11.trans f7, a12⟩

/-- What SCAN does to the scanner at `skip = 0`, by mode, with `f` bits buffered: it waits, or it writes one of
the values of R88. -/
theorem scan_outcomes {s : State} (h : s.scanner.skip = 0) :
    (scan s = s ∧ s.buffer.fillBits < 20) ∨
    (s.scanner.mode = .scanning ∧ 20 ≤ s.buffer.fillBits ∧ 5 ≤ (scan s).scanner.skip.toNat ∧
      (scan s).scanner.mode ≠ .awaitingExtendedLength ∧
      ((scan s).scanner.mode = .awaitingDirOffset → (scan s).scanner.skip = 8)) ∨
    (s.scanner.mode = .awaitingSize ∧ 20 ≤ s.buffer.fillBits ∧ (scan s).scanner.mode = .scanning) ∨
    (s.scanner.mode = .awaitingShortLength ∧ 8 ≤ s.buffer.fillBits ∧ (scan s).scanner.mode = .scanning ∧
      2 ≤ (scan s).scanner.skip.toNat) ∨
    (s.scanner.mode = .awaitingExtendedLength ∧ 8 ≤ s.buffer.fillBits ∧
      (scan s).scanner.mode = .scanning ∧ 4 ≤ (scan s).scanner.skip.toNat) ∨
    (s.scanner.mode = .awaitingDirOffset ∧ 20 ≤ s.buffer.fillBits ∧
      (scan s).scanner.mode = .awaitingExtendedLength) := by
  rw [scan_of_skip_zero h]
  cases hm : s.scanner.mode <;> simp only
  · by_cases hf : 20 ≤ s.buffer.fillBits
    · rw [armScanning_of_le hf]
      exact .inr (.inl ⟨trivial, hf, five_le_entry_skip _ _, (entry_mode _ _).1, (entry_mode _ _).2⟩)
    · exact .inl ⟨armScanning_of_lt (by omega), by omega⟩
  · by_cases hf : 20 ≤ s.buffer.fillBits
    · rw [armAwaitingSize_of_le hf]
      exact .inr (.inr (.inl ⟨trivial, hf, rfl⟩))
    · exact .inl ⟨armAwaitingSize_of_lt (by omega), by omega⟩
  · by_cases hf : 8 ≤ s.buffer.fillBits
    · rw [armAwaitingShortLength_of_le hf]
      refine .inr (.inr (.inr (.inl ⟨trivial, hf, rfl, ?_⟩)))
      show 2 ≤ (shortLengthSkip _).toNat
      rw [shortLengthSkip_toNat]; omega
    · exact .inl ⟨armAwaitingShortLength_of_lt (by omega), by omega⟩
  · by_cases hf : 8 ≤ s.buffer.fillBits
    · rw [armAwaitingExtendedLength_of_le hf]
      refine .inr (.inr (.inr (.inr (.inl ⟨trivial, hf, rfl, ?_⟩))))
      show 4 ≤ (extendedLengthSkip _).toNat
      rw [extendedLengthSkip_toNat]; omega
    · exact .inl ⟨armAwaitingExtendedLength_of_lt (by omega), by omega⟩
  · by_cases hf : 20 ≤ s.buffer.fillBits
    · rw [armAwaitingDirOffset_of_le hf]
      exact .inr (.inr (.inr (.inr (.inr ⟨trivial, hf, rfl⟩))))
    · exact .inl ⟨armAwaitingDirOffset_of_lt (by omega), by omega⟩

/-- Running a sequence is running its first part, then its second on the state that left. -/
theorem execSeq_append (is js : List Instr) (s t : State) (h : execSeq is s = .next t) :
    execSeq (is ++ js) s = execSeq js t := by
  induction is generalizing s with
  | nil => cases h; rfl
  | cons i is ih =>
    simp only [List.cons_append, execSeq] at h ⊢
    cases he : exec i s with
    | next u => rw [he] at h; exact ih u h
    | fault f => cases f
    | refused r => rw [he] at h; cases h

/-- A sequence whose first operation answers a next state goes on from it. -/
theorem execSeq_cons {i : Instr} {is : List Instr} {s t : State} (h : exec i s = .next t) :
    execSeq (i :: is) s = execSeq is t := by simp only [execSeq, h]

end Sys2Proof.Machine
end

