-- ==== Sys2Proof/Laws/Step.lean ====
section
/-! SUPPORT. What one operation can do, said once over all 48 (the case analysis that whole-machine rules cite
instead of unfolding `exec`), and what one step can do. -/

namespace Sys2Proof.Machine

/-- A BYTE, accepted or not, by what it does to the registers a drain does not touch (43_stream_decoder.md R107):
everything that holds of `ingest` without a bound on the fill level. -/
theorem ingest_frame (b : Byte) (s : State) :
    (ingest b s).done = s.done ∧ (ingest b s).params = s.params ∧ (ingest b s).result = s.result ∧
      (ingest b s).port = s.port ∧
      (((ingest b s).err = s.err ∧
          ∃ buf, s.buffer.push s.params.cap 8 (byteOperand b) = .ok buf ∧
            ingest b s = drain (beforeDrain buf s) ∧
            (ingest b s).scanner.mode = (beforeDrain buf s).scanner.mode ∧
            (ingest b s).scanner.dirFlag = (beforeDrain buf s).scanner.dirFlag) ∨
        (s.params.cap < s.buffer.fillBits + 8 ∧ ingest b s = raise .bufferOverflow s)) := by
  by_cases h : s.params.cap < s.buffer.fillBits + 8
  · rw [ingest_of_overflow h]
    exact ⟨rfl, rfl, rfl, rfl, .inr ⟨h, rfl⟩⟩
  · cases hp : s.buffer.push s.params.cap 8 (byteOperand b) with
    | error e => simp [BitBuffer.push, h] at hp
    | ok buf =>
      obtain ⟨f1, f2, f3, f4, f5, f6, f7⟩ := beforeDrain_frame buf s
      obtain ⟨k, _, a1, a2, a3, a4, a5, a6, a7, a8, a9, a10, a11, a12⟩ := drain_account (beforeDrain buf s)
      have hi : ingest b s = drain (beforeDrain buf s) := ingest_of_push hp
      rw [hi]
      exact ⟨a8.trans f4, a9.trans f5, a10.trans f6, a11.trans f7, .inl ⟨a7.trans f3, buf, rfl, rfl, a5, a6⟩⟩

/-- What SCAN, an arm row or a prologue operation does: nothing, or with `skip` at 0 the SCAN of R81, or with a
prologue due the writes of a triple of the table. -/
def ScansTo (s t : State) : Prop :=
  t = s ∨ (s.scanner.skip = 0 ∧ t = scan s) ∨
    (s.scanner.skip = 0 ∧ s.scanner.mode = .scanning ∧ 20 ≤ s.buffer.fillBits ∧
      ∃ n, t = applyEntry (entryOf s.params.table n) s)

theorem scansTo_scan (s : State) : ScansTo s (scan s) := by
  by_cases h : s.scanner.skip = 0
  · exact .inr (.inl ⟨h, rfl⟩)
  · exact .inl (scan_of_skip_ne_zero h)

theorem scansTo_arm (s : State) (m : Mode) : ∃ t, exec m.arm s = .next t ∧ ScansTo s t := by
  by_cases h : s.scanner.skip = 0 ∧ s.scanner.mode = m
  · obtain ⟨hs, rfl⟩ := h
    refine ⟨scan s, ?_, .inr (.inl ⟨hs, rfl⟩)⟩
    rw [scan_of_skip_zero hs]
    cases hm : s.scanner.mode <;>
      simp only [Mode.arm, exec, execScanScanning, execScanAwaitingSize, execScanAwaitingShortLength,
        execScanAwaitingExtendedLength, execScanAwaitingDirOffset] <;> rw [whenSelected_of hs hm]
  · refine ⟨s, ?_, .inl rfl⟩
    cases m <;>
      simp only [Mode.arm, exec, execScanScanning, execScanAwaitingSize, execScanAwaitingShortLength,
        execScanAwaitingExtendedLength, execScanAwaitingDirOffset] <;> rw [whenSelected_of_not h]

theorem scansTo_prologue (s : State) (c : Field20) (n : PrologueName) :
    ∃ t, exec (n.instr c) s = .next t ∧ ScansTo s t := by
  rw [exec_prologue_instr]
  cases hd : prologueDue s with
  | true =>
    obtain ⟨h1, h2, h3⟩ := prologueDue_iff.mp hd
    exact ⟨_, takePrologue_of_due hd, .inr (.inr ⟨h1, h2, h3, n, rfl⟩)⟩
  | false => exact ⟨_, takePrologue_of_not_due hd, .inl rfl⟩

/-- The operations that write the scanner and nothing else. -/
def WritesScannerOnly (i : Instr) : Prop := i = .scan ∨ i.armMode ≠ none ∨ i.isPrologue = true

/-- Everything `exec` can answer with a next state: one case per kind of operation. -/
theorem exec_cases {i : Instr} {s t : State} (h : exec i s = .next t) :
    ((i = .nop ∨ i = .unop) ∧ t = s) ∨
    (i = .reset ∧ t = (State.resetWith s.params).setPort s.port) ∨
    (∃ b, i = .byte b ∧ (s.ended = true ∧ t = s ∨ s.ended = false ∧ t = ingest b s)) ∨
    (i = .eos ∧ (s.ended = true ∧ t = s ∨ s.ended = false ∧ t = endStream s)) ∨
    (∃ n v, i = .push n v ∧
      ((∃ c, s.buffer.push s.params.cap n v = .ok c ∧ t = (s.setBuffer c).setResult .ok) ∨
        s.params.cap < s.buffer.fillBits + n ∧
          t = s.setResult (.error .bufferOverflow))) ∨
    (∃ n, i = .pop n ∧
      ((∃ r c, s.buffer.pop n = .ok (r, c) ∧ t = (s.setBuffer c).setResult (.rdata r)) ∨
        s.buffer.fillBits < n ∧
          t = s.setResult (.error .bufferUnderflow))) ∨
    ((i = .rem ∨ (∃ n, i = .peek n) ∨ i = .final ∨ i = .size) ∧ ∃ r, t = s.setResult r) ∨
    (∃ n, i = .upd n ∧ t = s.setChecksum (s.checksum.update n)) ∨
    (WritesScannerOnly i ∧ ScansTo s t) := by
  have scanCase : WritesScannerOnly i → (∃ u, exec i s = .next u ∧ ScansTo s u) → WritesScannerOnly i ∧ ScansTo s t := by
    rintro hi ⟨u, hu, hs⟩
    rw [h] at hu
    cases hu
    exact ⟨hi, hs⟩
  cases i
  case nop => cases h; exact .inl ⟨.inl rfl, rfl⟩
  case unop => cases h; exact .inl ⟨.inr rfl, rfl⟩
  case reset => cases h; exact .inr (.inl ⟨rfl, rfl⟩)
  case byte b =>
    refine .inr (.inr (.inl ⟨b, rfl, ?_⟩))
    cases he : s.ended <;> simp only [exec, execByte, he] at h <;> cases h
    · exact .inr ⟨rfl, rfl⟩
    · exact .inl ⟨rfl, rfl⟩
  case eos =>
    refine .inr (.inr (.inr (.inl ⟨rfl, ?_⟩)))
    cases he : s.ended <;> simp only [exec, execEos, he] at h <;> cases h
    · exact .inr ⟨rfl, rfl⟩
    · exact .inl ⟨rfl, rfl⟩
  case push n v =>
    refine .inr (.inr (.inr (.inr (.inl ⟨n, v, rfl, ?_⟩))))
    by_cases hf : s.params.cap < s.buffer.fillBits + n
    · rw [exec_push_of_error (push_raises hf)] at h; cases h; exact .inr ⟨hf, rfl⟩
    · cases hp : s.buffer.push s.params.cap n v with
      | error e => simp [BitBuffer.push, hf] at hp
      | ok c => rw [exec_push_of_ok hp] at h; cases h; exact .inl ⟨c, rfl, rfl⟩
  case pop n =>
    refine .inr (.inr (.inr (.inr (.inr (.inl ⟨n, rfl, ?_⟩)))))
    by_cases hf : s.buffer.fillBits < n
    · rw [exec_pop_of_error (pop_raises hf)] at h; cases h; exact .inr ⟨hf, rfl⟩
    · cases hp : s.buffer.pop n with
      | error e => simp [BitBuffer.pop, hf] at hp
      | ok rc => obtain ⟨r, c⟩ := rc; rw [exec_pop_of_ok hp] at h; cases h; exact .inl ⟨r, c, rfl, rfl⟩
  case rem => cases h; exact .inr (.inr (.inr (.inr (.inr (.inr (.inl ⟨.inl rfl, _, rfl⟩))))))
  case peek n => cases h; exact .inr (.inr (.inr (.inr (.inr (.inr (.inl ⟨.inr (.inl ⟨n, rfl⟩), _, rfl⟩))))))
  case final => cases h; exact .inr (.inr (.inr (.inr (.inr (.inr (.inl ⟨.inr (.inr (.inl rfl)), _, rfl⟩))))))
  case size => cases h; exact .inr (.inr (.inr (.inr (.inr (.inr (.inl ⟨.inr (.inr (.inr rfl)), _, rfl⟩))))))
  case upd n => cases h; exact .inr (.inr (.inr (.inr (.inr (.inr (.inr (.inl ⟨n, rfl, rfl⟩)))))))
  case scan =>
    exact .inr (.inr (.inr (.inr (.inr (.inr (.inr (.inr (scanCase (.inl rfl) ⟨_, rfl, scansTo_scan s⟩))))))))
  case scanScanning | scanAwaitingSize | scanAwaitingShortLength | scanAwaitingExtendedLength
      | scanAwaitingDirOffset =>
    refine .inr (.inr (.inr (.inr (.inr (.inr (.inr (.inr (scanCase (.inr (.inl (by simp [Instr.armMode]))) ?_))))))))
    first
      | exact scansTo_arm s .scanning | exact scansTo_arm s .awaitingSize
      | exact scansTo_arm s .awaitingShortLength | exact scansTo_arm s .awaitingExtendedLength
      | exact scansTo_arm s .awaitingDirOffset
  case reserved9 | reservedA | reservedB | reservedC | reservedD | reservedE | reservedF => cases h
  case pDefault code =>
    exact .inr (.inr (.inr (.inr (.inr (.inr (.inr (.inr (scanCase (.inr (.inr rfl))
      (scansTo_prologue s code .default)))))))))
  all_goals
    refine .inr (.inr (.inr (.inr (.inr (.inr (.inr (.inr (scanCase (.inr (.inr rfl)) ?_))))))))
    first
      | exact scansTo_prologue s 0 (.size 0) | exact scansTo_prologue s 0 (.size 1)
      | exact scansTo_prologue s 0 (.size 2) | exact scansTo_prologue s 0 (.size 3)
      | exact scansTo_prologue s 0 (.size 4) | exact scansTo_prologue s 0 (.size 5)
      | exact scansTo_prologue s 0 (.size 6) | exact scansTo_prologue s 0 (.size 7)
      | exact scansTo_prologue s 0 (.size 8) | exact scansTo_prologue s 0 (.ascic 0)
      | exact scansTo_prologue s 0 (.ascic 1) | exact scansTo_prologue s 0 (.ascic 2)
      | exact scansTo_prologue s 0 .dir | exact scansTo_prologue s 0 (.fix 0)
      | exact scansTo_prologue s 0 (.fix 1) | exact scansTo_prologue s 0 (.fix 2)
      | exact scansTo_prologue s 0 (.fix 3) | exact scansTo_prologue s 0 (.fix 4)
      | exact scansTo_prologue s 0 (.fix 5) | exact scansTo_prologue s 0 (.fix 6)
      | exact scansTo_prologue s 0 (.fix 7) | exact scansTo_prologue s 0 (.fix 8)

/-- What SCAN, an arm row or a prologue operation leaves alone. -/
theorem ScansTo.frame {s t : State} (h : ScansTo s t) :
    t.buffer = s.buffer ∧ t.checksum = s.checksum ∧ t.err = s.err ∧ t.done = s.done ∧ t.params = s.params ∧
      t.result = s.result ∧ t.port = s.port := by
  rcases h with rfl | ⟨_, rfl⟩ | ⟨_, _, _, n, rfl⟩
  · exact ⟨rfl, rfl, rfl, rfl, rfl, rfl, rfl⟩
  · exact ⟨scan_buffer s, scan_checksum s, scan_err s, scan_done s, scan_params s, scan_result s, scan_port s⟩
  · exact ⟨rfl, rfl, rfl, rfl, rfl, rfl, rfl⟩

/-- One step: nothing with nothing waiting, else the operation at the head of the port. -/
theorem step_cases (s : State) :
    (s.port = [] ∧ step s = .next s) ∨
      ∃ w rest, s.port = w :: rest ∧ step s = exec (decodePort w) (s.setPort rest) := by
  cases hp : s.port with
  | nil => exact .inl ⟨rfl, by simp [step, stepFetched, fetch, hp]⟩
  | cons w rest => exact .inr ⟨w, rest, rfl, by simp [step, stepFetched, fetch, hp]⟩

end Sys2Proof.Machine
end

