-- ==== Sys2Proof/Machine/HostContract.lean ====
section
/-! DEFINITION. The contract between the CORE and the surrounding software, "recorded, not modelled" as hardware
(00_scope.md R6 to R8, 60_exceptions.md R125): no operation of the CORE uses anything here. It says which command
sequence a file becomes and how a result is printed, so that the end-to-end examples can be read. -/

namespace Sys2Proof.Machine

/-- R6: the ASCII codes of "HPHP48-". -/
def fileMagic : List Byte := [0x48, 0x50, 0x48, 0x50, 0x34, 0x38, 0x2D]

/-- The errors of the host, raised before the CORE sees anything (R125). -/
inductive HostError
  | usage | format
deriving DecidableEq, Repr

/-- R6: exactly one argument is required. -/
def checkArguments (count : Nat) : Except HostError Unit :=
  if count = 1 then .ok () else .error .usage

/-- R6: the header check. The revision character and the object stream, or FormatError. -/
def openFile (file : List Byte) : Except HostError (Byte × List Byte) :=
  if file.take 7 = fileMagic then
    match file.drop 7 with
    | [] => .error .format
    | revision :: stream => .ok (revision, stream)
  else .error .format

/-- FILE (30_encoding.md R65): the commands a file becomes. -/
def fileCommands (file : List Byte) : Except HostError (List Instr) :=
  match openFile file with
  | .ok (_, stream) => .ok (streamCommands stream)
  | .error e => .error e

/-- R8: the one line a successful run prints, and nothing otherwise. -/
def outputLine (revision : Byte) : RunResult → Option (List Char)
  | .ok crc size half =>
    some ([Char.ofNat revision.toNat, ' ', '#'] ++ hexDigits crc.toNat ++ ['h', ' '] ++ Nat.toDigits 10 size ++
      (if half then ['.', '5'] else []))
  | .error _ => none
  | .unfinished => none

/-- R8: 0 on success, 1 on every error; an open run has no exit code yet. -/
def exitCode : RunResult → Option Nat
  | .ok _ _ _ => some 0
  | .error _ => some 1
  | .unfinished => none

end Sys2Proof.Machine
end

