-- ==== Sys2Proof/Tests/Slice0.lean ====
section
/-! SUPPORT. The model's own tests. Words are written out from 30_encoding.md; expected states are those of
95_test_vectors.md (the vector is named at each test) or of the examples in the rules. The second half has one
witness for the hypotheses of each statement. -/

namespace Sys2Proof.Tests

open Sys2Proof.Machine

/-- The next state of an outcome. -/
def after : Machine.Result → Option State
  | .next t => some t
  | .fault _ => none
  | .refused _ => none

/-- The refusal of an outcome. -/
def refusal : Machine.Result → Option Refusal
  | .next _ => none
  | .fault _ => none
  | .refused r => some r

/-- A state as 95_test_vectors.md writes one: `(value, fillBits, mode, skip, crc, nibbleCount, err, done,
dirFlag)`, with `CAP = 64` and `PT_REF`. -/
def st (value fill : Nat) (mode : Mode) (skip : Field20) (crc : BitVec 16) (count : Nat)
    (err : Option ErrorKind) (done dir : Bool) : State :=
  { State.reset with
    buffer := ⟨value, fill⟩, scanner := ⟨mode, skip, dir⟩, checksum := ⟨crc, count⟩, err := err, done := done }

/-- A state with a scanner and a buffer, the other registers at reset. -/
def sc (mode : Mode) (skip : Field20) (dir : Bool) (value fill : Nat) : State :=
  st value fill mode skip 0 0 none false dir

/-- A state with a buffer, the other registers at reset. -/
def bf (value fill : Nat) : State := sc .scanning 0 false value fill

/-- A state with a checksum accumulator, the other registers at reset. -/
def ck (crc : BitVec 16) (count : Nat) : State := st 0 0 .scanning 0 crc count none false false

/-- The reset state with one item waiting. -/
def waiting (w : PortWord) : State := State.reset.setPort [w]

/-- The reset state under another capacity. -/
def capped (cap : Nat) : State := State.resetWith { cap := cap, table := referenceTable }

/-! ### WellFormed -/

/-- R56: the default row stands for no code of the table. -/
theorem test_wellFormed_refuses_default_on_a_table_code :
    WellFormed referenceParams (.pDefault 0x02A2C) = false := by decide

theorem test_wellFormed_default_elsewhere : WellFormed referenceParams (.pDefault 0x02A74) = true := by decide

/-- R4, R70: `nbits` is 7 bits wide for `CAP = 64`, so 0 to 127; one more is no operand. -/
theorem test_wellFormed_refuses_wide_nbits :
    [Instr.push 128 0, .pop 128, .peek 128].map (WellFormed referenceParams) = [false, false, false] ∧
      [Instr.push 127 0, .pop 127, .peek 127].map (WellFormed referenceParams) = [true, true, true] := by decide

/-- R4, R70: `bits` is `CAP` bits wide. -/
theorem test_wellFormed_refuses_wide_bits :
    WellFormed referenceParams (.push 8 (2 ^ 64)) = false ∧
      WellFormed referenceParams (.push 8 (2 ^ 64 - 1)) = true ∧
      WellFormed (capped 128).params (.push 8 (2 ^ 64)) = true := by decide

/-- R4: `FBW = NBW = ceil(log2(CAP + 1))`. -/
theorem test_operand_width_follows_the_capacity :
    [32, 63, 64, 127, 128].map (fun cap => (capped cap).params.nbw) = [6, 6, 7, 7, 8] := by decide

/-! ### Decoding, words from the tables of 30_encoding.md -/

/-- R59: `cmd` in bits 9:8, `data` in bits 7:0; the data bits of the other three are ignored. -/
theorem test_decode_commands :
    decodeCommand 0b0000000000 = .nop ∧ decodeCommand 0b0011111111 = .nop ∧
      decodeCommand 0b0100101100 = .byte 0x2C ∧ decodeCommand 0b0110000001 = .byte 0x81 ∧
      decodeCommand 0b1000000000 = .eos ∧ decodeCommand 0b1000000001 = .eos ∧
      decodeCommand 0b1100000000 = .reset ∧ decodeCommand 0b1111111111 = .reset := by decide

/-- Operand buses with a different value on each. -/
def buses : OperandBus := { nbits := 20, bits := 0x02933, nib := 0xC }

/-- R60: the selects 0000 to 1000, each with the operand the table names. -/
theorem test_decode_micro :
    decodeMicro 0b0000 buses = .unop ∧ decodeMicro 0b0001 buses = .push 20 0x02933 ∧
      decodeMicro 0b0010 buses = .pop 20 ∧ decodeMicro 0b0011 buses = .rem ∧
      decodeMicro 0b0100 buses = .peek 20 ∧ decodeMicro 0b0101 buses = .scan ∧
      decodeMicro 0b0110 buses = .upd 0xC ∧ decodeMicro 0b0111 buses = .final ∧
      decodeMicro 0b1000 buses = .size := by decide

/-- R61: the reserved selects 1001 to 1111. -/
theorem test_decode_reserved :
    decodeMicro 0b1001 buses = .reserved9 ∧ decodeMicro 0b1010 buses = .reservedA ∧
      decodeMicro 0b1011 buses = .reservedB ∧ decodeMicro 0b1100 buses = .reservedC ∧
      decodeMicro 0b1101 buses = .reservedD ∧ decodeMicro 0b1110 buses = .reservedE ∧
      decodeMicro 0b1111 buses = .reservedF := by decide

/-- R60, R62: the five arms, by `mode` with `skip == 0`; SCAN itself while `skip != 0`. -/
theorem test_decode_arms :
    selectArm .scanning 0 .scan = .scanScanning ∧ selectArm .awaitingSize 0 .scan = .scanAwaitingSize ∧
      selectArm .awaitingShortLength 0 .scan = .scanAwaitingShortLength ∧
      selectArm .awaitingExtendedLength 0 .scan = .scanAwaitingExtendedLength ∧
      selectArm .awaitingDirOffset 0 .scan = .scanAwaitingDirOffset ∧
      selectArm .awaitingSize 3 .scan = .scan := by decide

/-- A prologue from its five nibbles in stream order, as 00_scope.md R5 writes one. -/
def prologueOf (ns : List Nibble) : Instr := decodePrologue referenceTable (BitVec.ofNat 20 (fieldOfNibbles ns))

/-- R57 in stream order: the nine size-prefixed codes. -/
theorem test_decode_size_prologues :
    prologueOf [0x8, 0xE, 0x9, 0x2, 0x0] = .pSize0 ∧ prologueOf [0xA, 0x0, 0xA, 0x2, 0x0] = .pSize1 ∧
      prologueOf [0xC, 0x2, 0xA, 0x2, 0x0] = .pSize2 ∧ prologueOf [0xE, 0x4, 0xA, 0x2, 0x0] = .pSize3 ∧
      prologueOf [0xE, 0x1, 0xB, 0x2, 0x0] = .pSize4 ∧ prologueOf [0x0, 0x4, 0xB, 0x2, 0x0] = .pSize5 ∧
      prologueOf [0x2, 0x6, 0xB, 0x2, 0x0] = .pSize6 ∧ prologueOf [0x8, 0x8, 0xB, 0x2, 0x0] = .pSize7 ∧
      prologueOf [0xC, 0xC, 0xD, 0x2, 0x0] = .pSize8 := by decide

/-- R57: the short-length codes and the directory code. -/
theorem test_decode_length_prologues :
    prologueOf [0xC, 0xF, 0xA, 0x2, 0x0] = .pAscic0 ∧ prologueOf [0x8, 0x4, 0xE, 0x2, 0x0] = .pAscic1 ∧
      prologueOf [0xD, 0x6, 0xE, 0x2, 0x0] = .pAscic2 ∧ prologueOf [0x6, 0x9, 0xA, 0x2, 0x0] = .pDir := by decide

/-- R57: the fixed-skip codes; the last two are the model's placeholders (log entry 3). -/
theorem test_decode_fix_prologues :
    prologueOf [0xF, 0xB, 0x9, 0x2, 0x0] = .pFix0 ∧ prologueOf [0x1, 0x1, 0x9, 0x2, 0x0] = .pFix1 ∧
      prologueOf [0x2, 0x9, 0xE, 0x2, 0x0] = .pFix2 ∧ prologueOf [0x3, 0x3, 0x9, 0x2, 0x0] = .pFix3 ∧
      prologueOf [0x5, 0x5, 0x9, 0x2, 0x0] = .pFix4 ∧ prologueOf [0x7, 0x7, 0x9, 0x2, 0x0] = .pFix5 ∧
      prologueOf [0xD, 0x9, 0x9, 0x2, 0x0] = .pFix6 ∧ decodePrologue referenceTable 0xFFFFD = .pFix7 ∧
      decodePrologue referenceTable 0xFFFFE = .pFix8 := by decide

/-- R56, R57: the codes the vectors use as DEFAULT. -/
theorem test_decode_default_prologues :
    prologueOf [0x4, 0x7, 0xA, 0x2, 0x0] = .pDefault 0x02A74 ∧
      prologueOf [0xB, 0x2, 0x1, 0x3, 0x0] = .pDefault 0x0312B ∧
      prologueOf [0, 0, 0, 0, 0] = .pDefault 0x00000 ∧
      prologueOf [0xF, 0xF, 0xF, 0xF, 0xF] = .pDefault 0xFFFFF := by decide

/-- R55: the reference table is admissible. -/
theorem test_reference_table_admissible : referenceTable.Admissible := by decide

/-- What is no operation, by name (log entry 9). -/
theorem test_decode_rejects_by_name :
    encodingOfBytes [] = .error (.length 0) ∧ encodingOfBytes [0x10] = .error (.strayBits 4) ∧
      encodingOfBytes [0, 0x04] = .error (.strayBits 10) ∧ encodingOfBytes [0, 0, 0x10] = .error (.strayBits 20) ∧
      encodingOfBytes [0, 0, 0, 0] = .error (.length 4) := by decide

/-! ### Commands, one step each -/

/-- Vector M10. -/
theorem test_nop : after (exec .nop (st 0x9 4 .awaitingSize 0 0xB5C7 5 none false true)) =
    some (st 0x9 4 .awaitingSize 0 0xB5C7 5 none false true) := by decide

/-- The example of R107: the third BYTE of program P1. -/
theorem test_byte_scans_and_drains : after (exec (.byte 0x00) (bf 0x2933 16)) =
    some (st 0 0 .scanning 15 0x9DE1 6 none false false) := by decide

/-- Vector M2: the drain stops at `skip == 0` and SCAN is not run again. -/
theorem test_byte_stops_inside_the_byte : after (exec (.byte 0xAB) (st 0 0 .scanning 1 0 0 none false false)) =
    some (st 0xA 4 .scanning 0 0xB58B 1 none false false) := by decide

/-- Vector E2: the residue is not 0. -/
theorem test_eos_format_error : after (exec .eos (st 0x9 4 .awaitingSize 0 0xB5C7 5 none false false)) =
    some (st 0x9 4 .awaitingSize 0 0xB5C7 5 (some .formatError) false false) := by decide

/-- Scenario S-B1: eight zero bits are buffered and the run succeeds. -/
theorem test_eos_accepts_zero_bits : after (exec .eos (bf 0 8)) =
    some (st 0 8 .scanning 0 0 0 none true false) := by decide

/-- Vector M9. -/
theorem test_reset : after (exec .reset (st 0x9 4 .awaitingSize 0 0xB5C7 5 none false true)) =
    some State.reset := by decide

/-- Vector M8. -/
theorem test_reset_leaves_the_error_state :
    after (exec .reset (st 0x1 8 .scanning 0 0 0 (some .formatError) false false)) = some State.reset := by decide

/-! ### The bit buffer, one step each -/

theorem test_unop : after (exec .unop (bf 0xA5 8)) = some (bf 0xA5 8) := by decide

/-- Vector B1, first and third rows: the operand is masked, and placed at the fill level. -/
theorem test_push_masks : after (exec (.push 8 0x1A5) State.reset) = some ((bf 0xA5 8).setResult .ok) := by decide

/-- Vector B3: one bit too many, nothing partially written, and no `err` for a sub-block on its own (R78, D24). -/
theorem test_push_overflow : after (exec (.push 8 0xAA) (bf 0x0FFFFFFFFFFFFFFF 60)) =
    some ((bf 0x0FFFFFFFFFFFFFFF 60).setResult (.error .bufferOverflow)) := by decide

/-- R4, U1: with `CAP = 128` bit 64 is a bit like any other. -/
theorem test_push_above_64_bits :
    after (exec (.push 8 0xA5) { capped 128 with buffer := ⟨1, 60⟩ }) =
      some { capped 128 with buffer := ⟨0xA5000000000000001, 68⟩, result := .ok } := by decide

/-- Vector B2: the full width leaves 0. -/
theorem test_pop_full_width : after (exec (.pop 64) (bf 0xDCBA9876543210FF 64)) =
    some ((bf 0 0).setResult (.rdata 0xDCBA9876543210FF)) := by decide

/-- Vector B1. -/
theorem test_pop_low_bits : after (exec (.pop 8) (bf 0x2933FA5 32)) =
    some ((bf 0x2933F 24).setResult (.rdata 0xA5)) := by decide

/-- Vector B1. -/
theorem test_rem : after (exec .rem (bf 0x2933FA5 32)) = some ((bf 0x2933FA5 32).setResult (.rcount 32)) := by decide

/-- Vector B5: zeros above the fill level, no raise. -/
theorem test_peek_unguarded : after (exec (.peek 20) (bf 0x9 4)) = some ((bf 0x9 4).setResult (.rdata 0x9)) := by decide

/-- The example of R74. -/
theorem test_peek : after (exec (.peek 20) (bf 0x302A74 24)) =
    some ((bf 0x302A74 24).setResult (.rdata 0x02A74)) := by decide

/-! ### The scanner, one step each -/

/-- Vector N9. -/
theorem test_scan_guard : after (exec .scan (sc .scanning 3 false 0x02933 20)) =
    some (sc .scanning 3 false 0x02933 20) := by decide

/-- Vector N21. -/
theorem test_scan_dispatches : after (exec .scan (sc .awaitingDirOffset 0 true 0x0000A 24)) =
    some (sc .awaitingExtendedLength 10 true 0x0000A 24) := by decide

/-- Vector N3. -/
theorem test_scanScanning : after (exec .scanScanning (sc .scanning 0 false 0x902A2C 24)) =
    some (sc .awaitingSize 5 false 0x902A2C 24) := by decide

/-- Vector N12. -/
theorem test_scanAwaitingSize : after (exec .scanAwaitingSize (sc .awaitingSize 0 false 0xFFFFF 20)) =
    some (sc .scanning 1048575 false 0xFFFFF 20) := by decide

/-- Vector N15. -/
theorem test_scanAwaitingShortLength :
    after (exec .scanAwaitingShortLength (sc .awaitingShortLength 0 false 0x801 12)) =
      some (sc .scanning 4 false 0x801 12) := by decide

/-- Vector N19. -/
theorem test_scanAwaitingExtendedLength :
    after (exec .scanAwaitingExtendedLength (sc .awaitingExtendedLength 0 true 0xFF 8)) =
      some (sc .scanning 514 true 0xFF 8) := by decide

/-- Vector N23: 16 bits are not enough. -/
theorem test_scanAwaitingDirOffset_waits :
    after (exec .scanAwaitingDirOffset (sc .awaitingDirOffset 0 true 0x000A 16)) =
      some (sc .awaitingDirOffset 0 true 0x000A 16) := by decide

/-- Vector N22. -/
theorem test_scanAwaitingDirOffset :
    after (exec .scanAwaitingDirOffset (sc .awaitingDirOffset 0 true 0 20)) =
      some (sc .awaitingExtendedLength 0 true 0 20) := by decide

/-! ### The checksum, one step each -/

/-- The example of R96. -/
theorem test_upd : after (exec (.upd 2) (ck 0x1081 1)) = some (ck 0x308B 2) := by decide

/-- Worked in full under K7: `(0xFFFF, 0x0) -> 0xF870`. -/
theorem test_upd_high : after (exec (.upd 0) (ck 0xFFFF 0)) = some (ck 0xF870 1) := by decide

/-- Q1: FINAL after K4. -/
theorem test_final : after (exec .final (ck 0x4A74 4)) = some ((ck 0x4A74 4).setResult (.checksum 0x4A74)) := by decide

/-- Q1: `21 -> (10, 1)`. -/
theorem test_size : after (exec .size (ck 0 21)) = some ((ck 0 21).setResult (.size 10 true)) := by decide

/-! ### Reserved selects -/

theorem test_reserved :
    [Instr.reserved9, .reservedA, .reservedB, .reservedC, .reservedD, .reservedE, .reservedF].map
        (fun i => refusal (exec i State.reset)) =
      [some (.reservedSelect 9), some (.reservedSelect 10), some (.reservedSelect 11), some (.reservedSelect 12),
        some (.reservedSelect 13), some (.reservedSelect 14), some (.reservedSelect 15)] := by decide

/-! ### Prologue operations, one step each (30_encoding.md R57, R55) -/

/-- The scanner after an operation on a state with a prologue due and `dirFlag` 0. -/
def scannerAfter (i : Instr) : Option Scanner := (after (exec i (bf 0x02933 20))).map State.scanner

theorem test_size_prologues :
    [Instr.pSize0, .pSize1, .pSize2, .pSize3, .pSize4, .pSize5, .pSize6, .pSize7, .pSize8].map scannerAfter =
      List.replicate 9 (some ⟨.awaitingSize, 5, false⟩) := by decide

theorem test_length_prologues :
    [Instr.pAscic0, .pAscic1, .pAscic2, .pDir].map scannerAfter =
      [some ⟨.awaitingShortLength, 5, false⟩, some ⟨.awaitingShortLength, 5, false⟩,
        some ⟨.awaitingShortLength, 5, false⟩, some ⟨.awaitingDirOffset, 8, true⟩] := by decide

theorem test_fix_prologues :
    [Instr.pFix0, .pFix1, .pFix2, .pFix3, .pFix4, .pFix5, .pFix6].map scannerAfter =
      [some ⟨.scanning, 7, false⟩, some ⟨.scanning, 10, false⟩, some ⟨.scanning, 11, false⟩,
        some ⟨.scanning, 21, false⟩, some ⟨.scanning, 26, false⟩, some ⟨.scanning, 37, false⟩,
        some ⟨.scanning, 47, false⟩] := by decide

/-- The open rows take the skip of the state's table (log entry 3). -/
theorem test_open_prologues :
    [Instr.pFix7, .pFix8, .pDefault 0].map scannerAfter =
      [some ⟨.scanning, referenceTable.fix[7].skip.nibbles, false⟩,
        some ⟨.scanning, referenceTable.fix[8].skip.nibbles, false⟩, some ⟨.scanning, 5, false⟩] := by decide

/-! ### The step -/

/-- A command at the head of the port is what the next step runs. -/
theorem test_step_runs_the_port : after (step (waiting (.command 0b0100000001))) = some (bf 1 8) := by decide

/-- A prologue placed as a table word is found by the scanner. -/
theorem test_step_runs_a_prologue :
    (after (step (State.reset.withFetchWord 24 0x02A96))).map State.scanner =
      some ⟨.awaitingDirOffset, 8, true⟩ := by decide

/-- The status view of the end state of program P3 (10_state.md R23). -/
theorem test_status_view :
    statusView (st 0 4 .scanning 0 0x3E9E 9 none true false) =
      { checksum := 0x3E9E, byteSize := 4, hasHalfByte := true, done := true, err := 0, dirFlag := false,
        dbgValue := 0, dbgFillBits := 4, dbgMode := 0, dbgSkip := 0 } := by decide

/-- Program P3's output line with revision `R` (00_scope.md R8): `R #3E9Eh 4.5`. -/
theorem test_output_line :
    outputLine 0x52 (.ok 0x3E9E 4 true) = some ['R', ' ', '#', '3', 'E', '9', 'E', 'h', ' ', '4', '.', '5'] := by
  decide

/-! ### Witnesses: for each statement with hypotheses, inputs that meet them together, at a boundary of each
clause -/

theorem witness_DecodeOfEncodeReturnsTheInstruction :
    referenceTable.CodesDistinct ∧
      (WellFormed referenceParams (.pDefault 0xFFFFF) = true ∧ (Instr.pDefault 0xFFFFF).armMode = none) ∧
      (WellFormed referenceParams (.push 127 (2 ^ 64 - 1)) = true ∧
        (Instr.push 127 (2 ^ 64 - 1)).armMode = none ∧
        encode referenceTable (.push 127 (2 ^ 64 - 1)) = .port (.micro 1 ⟨127, 2 ^ 64 - 1, 0⟩)) ∧
      (WellFormed (capped 128).params (.push 255 (2 ^ 128 - 1)) = true) ∧
      (WellFormed referenceParams .scanAwaitingDirOffset = true ∧
        Instr.scanAwaitingDirOffset.armMode = some .awaitingDirOffset) := by decide

theorem witness_EveryCommandWordMatchesItsMask :
    (0x0FF : BitVec 10) &&& 0x300 = 0x000 ∧ (0x1FF : BitVec 10) &&& 0x300 = 0x100 ∧
      (0x2FF : BitVec 10) &&& 0x300 = 0x200 ∧ (0x3FF : BitVec 10) &&& 0x300 = 0x300 := by decide

theorem witness_LookupIsTheTableOrTheDefault :
    referenceTable.CodesDistinct ∧ (0x02DCC : Field20) = referenceTable.size[(8 : Fin 9)] ∧
      (0x02E6D : Field20) = referenceTable.ascic[(2 : Fin 3)] ∧ (0x02A96 : Field20) = referenceTable.dir ∧
      (0x0299D : Field20) = referenceTable.fix[(6 : Fin 9)].code ∧
      (0x00000 : Field20) ∉ referenceTable.codes ∧ (0xFFFFF : Field20) ∉ referenceTable.codes := by decide

theorem witness_StepRunsTheDecodedOperation :
    (waiting (.command 0x1FF)).port = .command 0x1FF :: [] ∧ WellFormed referenceParams (.byte 0xFF) = true ∧
      (Instr.byte 0xFF).armMode = none ∧ encode referenceTable (.byte 0xFF) = .port (.command 0x1FF) ∧
      State.reset.port = [] := by decide

theorem witness_StepRunsThePlacedTableWord :
    tableEncoding 16 0x3FF = some (.port (.command 0x3FF)) ∧
      tableEncoding 8 0xF = some (.port (.micro 0xF OperandBus.idle)) ∧
      tableEncoding 24 0xFFFFF = some (.prologue 0xFFFFF) := by decide

theorem witness_PushPlacesTheMaskedBitsAtTheFillLevel :
    (bf 0 0).buffer.fillBits + 64 ≤ (bf 0 0).params.cap ∧ (bf 0 64).buffer.fillBits + 0 ≤ (bf 0 64).params.cap ∧
      (capped 1000).buffer.fillBits + 1000 ≤ (capped 1000).params.cap := by decide

theorem witness_PushThatDoesNotFitRaisesOverflow :
    (bf 0 64).params.cap < (bf 0 64).buffer.fillBits + 1 ∧
      (bf 0 0).params.cap < (bf 0 0).buffer.fillBits + 65 := by decide

theorem witness_PopReturnsTheLowBitsAndRemovesThem :
    64 ≤ (bf 0xDCBA9876543210FF 64).buffer.fillBits ∧
      0 ≤ (bf 0 0).buffer.fillBits := by decide

theorem witness_PopOfTooManyBitsFailsWithUnderflow :
    (bf 0 0).buffer.fillBits < 1 ∧ (bf 0 64).buffer.fillBits < 65 := by decide

theorem witness_PopThatRaisesKeepsEveryRegister :
    (bf 0x7 3).buffer.fillBits < 4 := by decide

theorem witness_PeekReadsWhatPopWouldReturn :
    20 ≤ (bf 0x02933 20).buffer.fillBits := by decide

theorem witness_RemReportsTheFillLevel : BufferSound (bf 0x2933FA5 32) := by decide

theorem witness_BufferIsFirstInFirstOut :
    (BufferSound (bf 0xA5 8) ∧ (bf 0xA5 8).buffer.fillBits + 56 ≤ (bf 0xA5 8).params.cap ∧
      after (exec (.push 56 0xF) (bf 0xA5 8)) = some ((bf 0xFA5 64).setResult .ok)) ∧
    (BufferSound (bf 0xA5 8) ∧ 8 ≤ (bf 0xA5 8).buffer.fillBits ∧
      after (exec (.pop 8) (bf 0xA5 8)) = some ((bf 0 0).setResult (.rdata 0xA5))) := by decide

theorem witness_PushesThenPopsRoundTrip :
    (State.reset.buffer = ⟨0, 0⟩ ∧
      (([(8, 0x1A5), (0, 1), (56, 0xF)] : List (Nat × Nat)).map fun x => x.1).sum ≤ State.reset.params.cap) ∧
    ((capped 200).buffer = ⟨0, 0⟩ ∧
      (([(100, 7), (100, 9)] : List (Nat × Nat)).map fun x => x.1).sum ≤ (capped 200).params.cap) := by decide

theorem witness_FieldsAreLittleEndianInNibbles :
    ((capped 20).buffer = ⟨0, 0⟩ ∧ 20 ≤ (capped 20).params.cap) ∧
      ((capped 128).buffer = ⟨0, 0⟩ ∧ 20 ≤ (capped 128).params.cap) := by decide

theorem witness_ScanTakesTheArmOfTheMode :
    (sc .scanning 1 false 0 0).scanner.skip ≠ 0 ∧ (sc .awaitingDirOffset 0 false 0 20).scanner.skip = 0 := by decide

/-- A state with a prologue due. -/
def due (c : Field20) : State := bf c.toNat 20

/-- The hypotheses, then one code of each class. -/
theorem witness_ScanningArmClassifiesThePrologue :
    ((due 0x02933).params.table.CodesDistinct ∧ (due 0x02933).scanner.mode = .scanning ∧
      (due 0x02933).scanner.skip = 0 ∧ 20 ≤ (due 0x02933).buffer.fillBits ∧
      (0x02933 : Field20).toNat = (due 0x02933).buffer.value % 2 ^ 20) ∧
    ((0x029E8 : Field20) = (due 0x029E8).params.table.size[(0 : Fin 9)] ∧
      (0x02AFC : Field20) = (due 0x02AFC).params.table.ascic[(0 : Fin 3)] ∧
      (0x02A96 : Field20) = (due 0x02A96).params.table.dir ∧
      (0x029BF : Field20) = (due 0x029BF).params.table.fix[(0 : Fin 9)].code ∧
      (0x02A74 : Field20) ∉ (due 0x02A74).params.table.codes) := by decide

theorem witness_AwaitingSizeArmReadsTheSize :
    (sc .awaitingSize 0 false 0xFFFFF 20).scanner.mode = .awaitingSize ∧
      (sc .awaitingSize 0 false 0xFFFFF 20).scanner.skip = 0 ∧
      20 ≤ (sc .awaitingSize 0 false 0xFFFFF 20).buffer.fillBits := by decide

theorem witness_AwaitingShortLengthArmReadsTheLength :
    (sc .awaitingShortLength 0 false 0xFF 8).scanner.mode = .awaitingShortLength ∧
      (sc .awaitingShortLength 0 false 0xFF 8).scanner.skip = 0 ∧
      8 ≤ (sc .awaitingShortLength 0 false 0xFF 8).buffer.fillBits := by decide

theorem witness_AwaitingExtendedLengthArmReadsTheLength :
    (sc .awaitingExtendedLength 0 true 0xFF 8).scanner.mode = .awaitingExtendedLength ∧
      (sc .awaitingExtendedLength 0 true 0xFF 8).scanner.skip = 0 ∧
      8 ≤ (sc .awaitingExtendedLength 0 true 0xFF 8).buffer.fillBits := by decide

theorem witness_AwaitingDirOffsetArmReadsTheOffset :
    (sc .awaitingDirOffset 0 true 0 20).scanner.mode = .awaitingDirOffset ∧
      (sc .awaitingDirOffset 0 true 0 20).scanner.skip = 0 ∧
      20 ≤ (sc .awaitingDirOffset 0 true 0 20).buffer.fillBits := by decide

/-- One bit too few in a 20-bit mode and in an 8-bit mode; an arm of another mode, and a skip that is not 0. -/
theorem witness_ScanWaitsForTheWholeField :
    ((sc .scanning 0 false 0 19).buffer.fillBits <
      (if (sc .scanning 0 false 0 19).scanner.mode = .awaitingShortLength ∨
        (sc .scanning 0 false 0 19).scanner.mode = .awaitingExtendedLength then 8 else 20)) ∧
    ((sc .awaitingShortLength 0 false 0 7).buffer.fillBits <
      (if (sc .awaitingShortLength 0 false 0 7).scanner.mode = .awaitingShortLength ∨
        (sc .awaitingShortLength 0 false 0 7).scanner.mode = .awaitingExtendedLength then 8 else 20)) ∧
    (sc .scanning 0 false 0 20).scanner.mode ≠ .awaitingSize ∧ (sc .scanning 1 false 0 20).scanner.skip ≠ 0 := by
  decide

/-- The second clause of the five arm statements: each mode with its field one bit short. -/
theorem witness_ArmsWaitForTheirField :
    ((sc .scanning 0 false 0 19).scanner.skip = 0 ∧ (sc .scanning 0 false 0 19).buffer.fillBits < 20) ∧
      ((sc .awaitingSize 0 false 0 19).scanner.skip = 0 ∧
        (sc .awaitingSize 0 false 0 19).buffer.fillBits < 20) ∧
      ((sc .awaitingShortLength 0 false 0 7).scanner.skip = 0 ∧
        (sc .awaitingShortLength 0 false 0 7).buffer.fillBits < 8) ∧
      ((sc .awaitingExtendedLength 0 false 0 7).scanner.skip = 0 ∧
        (sc .awaitingExtendedLength 0 false 0 7).buffer.fillBits < 8) ∧
      ((sc .awaitingDirOffset 0 false 0 19).scanner.skip = 0 ∧
        (sc .awaitingDirOffset 0 false 0 19).buffer.fillBits < 20) := by decide

theorem witness_ScanExecutesThePrologueItFinds :
    (due 0xFFFFF).scanner.mode = .scanning ∧ (due 0xFFFFF).scanner.skip = 0 ∧
      20 ≤ (due 0xFFFFF).buffer.fillBits ∧
      (0xFFFFF : Field20).toNat = (due 0xFFFFF).buffer.value % 2 ^ 20 := by decide

theorem witness_LengthPrefixedProloguesSetTheNextPhase :
    (due 0x02A2C).scanner.mode = .scanning ∧ (due 0x02A2C).scanner.skip = 0 ∧
      20 ≤ (due 0x02A2C).buffer.fillBits := by decide

theorem witness_FixedAndDefaultProloguesSkipInScanning :
    (due 0x02933).scanner.mode = .scanning ∧ (due 0x02933).scanner.skip = 0 ∧
      20 ≤ (due 0x02933).buffer.fillBits ∧ (due 0x02933).params.table = referenceTable := by decide

theorem witness_ProloguesNotDueChangeNothing :
    (sc .awaitingSize 0 false 0x02933 20).scanner.mode ≠ .scanning ∧
      (sc .scanning 1 false 0x02933 20).scanner.skip ≠ 0 ∧
      (sc .scanning 0 false 0x2933 19).buffer.fillBits < 20 := by decide

/-- An edge of each kind. -/
theorem witness_ModeMovesOnlyAlongTheGraph :
    Instr.scan ≠ .reset ∧
      after (exec .scan (due 0x02A2C)) = some (sc .awaitingSize 5 false 0x02A2C 20) ∧
      after (exec .scan (sc .awaitingDirOffset 0 true 0 20)) = some (sc .awaitingExtendedLength 0 true 0 20) ∧
      after (exec .scan (sc .awaitingSize 0 false 0 20)) = some (sc .scanning 0 false 0 20) ∧
      after (exec .scan (sc .scanning 0 false 0 19)) = some (sc .scanning 0 false 0 19) := by decide

theorem witness_UpdEqualsFourBitSerialSteps : after (exec (.upd 0xF) (ck 0xFFFF 0)) = some (ck 0x0FFF 1) := by decide

theorem witness_NibbleCountCountsTheUpdates : (ck 0 0).checksum = State.reset.checksum := by decide

theorem witness_ChecksumDependsOnTheNibblesAlone :
    (ck 0x1234 0).checksum.crc = (st 0x9 4 .awaitingSize 0 0x1234 5 none false true).checksum.crc := by decide

/-- At the last fill level that still takes a byte. -/
theorem witness_ByteIsPushThenScanThenDrain :
    RunOpen (bf 0 56) ∧ BufferSound (bf 0 56) ∧
      (bf 0 56).buffer.fillBits + 8 ≤ (bf 0 56).params.cap := by decide

theorem witness_AcceptedByteKeepsTheAccount :
    RunOpen (bf 0x2933 16) ∧ BufferSound (bf 0x2933 16) ∧
      (bf 0x2933 16).buffer.fillBits + 8 ≤ (bf 0x2933 16).params.cap := by decide

/-- Vector W1c: `CAP = 24`, 24 bits held; and the first such level with `CAP = 64`. -/
theorem witness_ByteThatDoesNotFitWritesOnlyErr :
    (RunOpen { capped 24 with buffer := ⟨0, 24⟩ } ∧
      ({ capped 24 with buffer := ⟨0, 24⟩ } : State).params.cap < 24 + 8) ∧
    (RunOpen (bf 0 57) ∧ (bf 0 57).params.cap < (bf 0 57).buffer.fillBits + 8) := by decide

theorem witness_EosTestsTheRawBufferValue :
    (RunOpen (bf 0x80 8) ∧ (bf 0x80 8).buffer.value ≠ 0) ∧ (RunOpen (bf 0 8) ∧ (bf 0 8).buffer.value = 0) := by decide

theorem witness_EndedRunIgnoresByteAndEos :
    (st 0x1 8 .scanning 0 0 0 (some .formatError) false false).err ≠ none ∧
      (st 0 0 .scanning 0 0 0 none true false).done = true := by decide

theorem witness_OnlyEosRaisesFormatError :
    after (exec .eos (bf 1 8)) = some ((bf 1 8).setErr (some .formatError)) ∧
      (bf 1 8).err ≠ some .formatError ∧ ((bf 1 8).setErr (some .formatError)).err = some .formatError := by decide

theorem witness_OnlyResetClearsTheStatus :
    Instr.eos ≠ .reset ∧
      after (exec .eos (st 0x1 8 .scanning 0 0 0 (some .bufferOverflow) false true)) =
        some (st 0x1 8 .scanning 0 0 0 (some .bufferOverflow) false true) ∧
      after (exec (.byte 1) (st 0 0 .scanning 0 0 0 none true true)) =
        some (st 0 0 .scanning 0 0 0 none true true) := by decide

theorem witness_RegistersAreWrittenOnlyByTheirOperations :
    after (exec .final (ck 0x4A74 4)) = some ((ck 0x4A74 4).setResult (.checksum 0x4A74)) := by decide

theorem witness_NoOperationChangesParametersOrInputs :
    after (exec (.byte 1) (waiting (.command 0x200))) =
      some ((bf 1 8).setPort [.command 0x200]) := by decide

theorem witness_ByteWithSkipPendingDoesNotScan : (sc .awaitingSize 1 false 0 0).scanner.skip ≠ 0 := by decide

/-- The two modes, each with all hypotheses: at the least fill level (vector Z1 has the first), and at the greatest
that leaves room for the second BYTE. -/
theorem witness_ZeroFieldIsReadTwice :
    (∀ s ∈ [sc .awaitingSize 0 false 0 12, sc .awaitingDirOffset 0 true 0 12, sc .awaitingDirOffset 0 true 0 48],
      RunOpen s ∧ BufferSound s ∧ s.scanner.skip = 0 ∧ 12 ≤ s.buffer.fillBits ∧
        s.buffer.fillBits + 8 ≤ s.params.cap ∧
        (s.buffer.value ||| ((0 : Byte).toNat <<< s.buffer.fillBits)) % 2 ^ 20 = 0 ∧
        (s.scanner.mode = .awaitingSize ∨ s.scanner.mode = .awaitingDirOffset) ∧
        s.buffer.fillBits + 16 ≤ s.params.cap) ∧
    (sc .awaitingSize 0 false 0 12).scanner.mode = .awaitingSize ∧
    (sc .awaitingDirOffset 0 true 0 12).scanner.mode = .awaitingDirOffset ∧
    0 ∉ (sc .awaitingSize 0 false 0 12).params.table.codes := by decide

theorem witness_RunHasAResultOnlyWhenItEnded :
    ((st 0 4 .scanning 0 0x3E9E 9 none true false).err = none ∧
      (st 0 4 .scanning 0 0x3E9E 9 none true false).done = true) ∧
    (st 1 8 .scanning 0 0 0 (some .formatError) false false).err = some .formatError ∧ RunOpen (bf 1 8) := by decide

/-- Every code of `err` and of `mode`. -/
theorem witness_StatusViewReadsTheRegisters :
    ((bf 0 0).err = none ∧ ((bf 0 0).setErr (some .bufferOverflow)).err = some .bufferOverflow ∧
      ((bf 0 0).setErr (some .bufferUnderflow)).err = some .bufferUnderflow ∧
      ((bf 0 0).setErr (some .formatError)).err = some .formatError) ∧
    ∀ m ∈ [Mode.scanning, .awaitingSize, .awaitingShortLength, .awaitingExtendedLength, .awaitingDirOffset],
      (sc m 0 false 0 0).scanner.mode = m := by decide

theorem witness_EveryStepKeepsTheBufferSound :
    BufferSound (waiting (.command 0x101)) ∧ after (step (waiting (.command 0x101))) = some (bf 1 8) := by decide

/-- 24 bits at a boundary, the most, with a BYTE waiting (70_reset_and_hazards.md R150). -/
theorem witness_EveryStepKeepsTheConditionsBetweenCommands :
    BetweenCommands ((bf 0 24).setPort [.command 0x100]) ∧
      after (step ((bf 0 24).setPort [.command 0x100])) = some (st 0 12 .scanning 0 0 5 none false false) := by decide

theorem witness_AssembledCoreNeverOverflowsOrUnderflows :
    BetweenCommands { capped 32 with buffer := ⟨0, 24⟩, port := [.command 0x1FF] } ∧
      BetweenCommands { capped 1000 with buffer := ⟨0, 24⟩, port := [.command 0x1FF] } := by decide

theorem witness_ByteDrainsAtMostEightNibbles :
    BetweenCommands (sc .awaitingExtendedLength 0 true 0 24) := by decide

/-- Vector E3. -/
theorem witness_TruncatedObjectIsAccepted :
    BetweenCommands (st 0 0 .scanning 2 0x25EF 12 none false false) ∧
      RunOpen (st 0 0 .scanning 2 0x25EF 12 none false false) ∧
      (st 0 0 .scanning 2 0x25EF 12 none false false).scanner.skip ≠ 0 := by decide

theorem witness_EveryRunEndsInSuccessOrFormatError :
    32 ≤ (capped 32).params.cap ∧ 32 ≤ (capped 1000).params.cap := by decide

theorem witness_RunIsIndependentOfHistoryAndCapacity :
    32 ≤ (capped 1000).params.cap ∧
      32 ≤ (st 1 8 .scanning 0 0 0 (some .formatError) false false).params.cap ∧
      (capped 1000).params.table = (st 1 8 .scanning 0 0 0 (some .formatError) false false).params.table := by decide

theorem witness_RunAccountsForEveryBit : 32 ≤ State.reset.params.cap ∧ 32 ≤ (capped 1000).params.cap := by decide

theorem witness_ChecksumCoversTheStreamNibblesInOrder :
    32 ≤ (capped 32).params.cap ∧ 32 ≤ (capped 1000).params.cap := by decide

end Sys2Proof.Tests
end

section
/-! PROOFS. The bit buffer's statements (40_bit_buffer.md): REM reports the fill level (R73), and pushes followed by
pops of the same widths return what was pushed (R75). The round trip goes through one number: `packed` is what the
buffer holds after the pushes, lowest item first, and each POP takes the lowest item off it. -/

namespace Sys2Proof.Machine

/-! ### REM -/

/-- All that REM does (R73). -/
theorem exec_rem (s : State) : exec .rem s = .next (s.setResult (.rcount s.buffer.fillBits)) := rfl

/-- Select 0011 is REM whatever stands on the operand buses (R60). -/
theorem decodeMicro_three (bus : OperandBus) : decodeMicro 3 bus = .rem := rfl

/-- Settles O14: REM writes the fill level to the result, and a sound fill level is at most the capacity. -/
theorem remReportsTheFillLevel : Obligations.RemReportsTheFillLevel :=
  ⟨decodeMicro_three, fun s => ⟨_, _, exec_rem s, rfl, rfl, rfl, And.left⟩⟩

/-! ### Traces -/

/-- A trace whose first operation answers a next state goes on from it. -/
theorem execTrace_cons {i : Instr} {is : List Instr} {s t : State} (h : exec i s = .next t) :
    execTrace (i :: is) s = (execTrace is t).map fun r => (t.result :: r.1, r.2) := by
  simp only [execTrace, h]

/-- A trace in two parts: the results of the first part, then those of the second from the state that left. -/
theorem execTrace_append {is js : List Instr} {s t u : State} {rs qs : List MicroResult}
    (his : execTrace is s = some (rs, t)) (hjs : execTrace js t = some (qs, u)) :
    execTrace (is ++ js) s = some (rs ++ qs, u) := by
  induction is generalizing s rs with
  | nil => cases his; exact hjs
  | cons i is ih =>
    cases he : exec i s with
    | next v =>
      rw [execTrace_cons he, Option.map_eq_some_iff] at his
      obtain ⟨⟨ps, w⟩, hps, heq⟩ := his
      cases heq
      rw [List.cons_append, execTrace_cons he, ih hps]
      rfl
    | fault f => cases f
    | refused r => simp [execTrace, he] at his

/-! ### What a list of pushed items holds -/

/-- The items, each a width and a value, side by side in one number: every value masked to its width, the first
item lowest (20_memory.md R35). -/
def packed : List (Nat × Nat) → Nat
  | [] => 0
  | x :: xs => x.2 % 2 ^ x.1 + 2 ^ x.1 * packed xs

/-- How many bits the items take together. -/
def totalWidth (items : List (Nat × Nat)) : Nat := (items.map fun x => x.1).sum

@[simp] theorem totalWidth_cons (x : Nat × Nat) (xs : List (Nat × Nat)) :
    totalWidth (x :: xs) = x.1 + totalWidth xs := List.sum_cons

/-- The lowest item is the first one, masked. -/
theorem packed_cons_mod (x : Nat × Nat) (xs : List (Nat × Nat)) : packed (x :: xs) % 2 ^ x.1 = x.2 % 2 ^ x.1 := by
  rw [packed, Nat.add_mul_mod_self_left, Nat.mod_mod]

/-- Above the lowest item are the others. -/
theorem packed_cons_div (x : Nat × Nat) (xs : List (Nat × Nat)) : packed (x :: xs) / 2 ^ x.1 = packed xs := by
  rw [packed, Nat.add_mul_div_left _ _ (Nat.two_pow_pos _),
    Nat.div_eq_of_lt (Nat.mod_lt _ (Nat.two_pow_pos _)), Nat.zero_add]

/-- In a buffer with no bit above its fill level, the OR of PUSH (R71) places the operand and adds. -/
theorem push_eq_add {cap n v : Nat} {b : BitBuffer} (hb : b.value < 2 ^ b.fillBits) (h : b.fillBits + n ≤ cap) :
    b.push cap n v = .ok ⟨b.value + 2 ^ b.fillBits * (v % 2 ^ n), b.fillBits + n⟩ := by
  rw [push_eq h, Nat.or_comm, ← Nat.shiftLeft_add_eq_or_of_lt hb, Nat.shiftLeft_eq, Nat.add_comm, Nat.mul_comm]

/-! ### The round trip -/

/-- Pushes that fit all report ok and leave the items, packed, above what a sound buffer held; only the buffer and
the result are written. -/
theorem execTrace_pushes {s : State} {items : List (Nat × Nat)} (hb : s.buffer.value < 2 ^ s.buffer.fillBits)
    (hfit : s.buffer.fillBits + totalWidth items ≤ s.params.cap) :
    ∃ r, execTrace (items.map fun x => Instr.push x.1 x.2) s =
      some (items.map fun _ => MicroResult.ok, (s.setBuffer
        ⟨s.buffer.value + 2 ^ s.buffer.fillBits * packed items,
          s.buffer.fillBits + totalWidth items⟩).setResult r) := by
  induction items generalizing s with
  | nil => exact ⟨s.result, by simp [execTrace, packed, totalWidth, State.setBuffer, State.setResult]⟩
  | cons x xs ih =>
    rw [totalWidth_cons, ← Nat.add_assoc] at hfit
    have hpush := push_eq_add (v := x.2) hb (Nat.le_of_add_right_le hfit)
    obtain ⟨r, hr⟩ := ih (s := (s.setBuffer _).setResult .ok) (push_below_fill hb hpush) hfit
    refine ⟨r, ?_⟩
    rw [List.map_cons, execTrace_cons (exec_push_of_ok hpush), hr]
    simp [packed, State.setBuffer, State.setResult, Nat.pow_add, Nat.mul_add, Nat.mul_assoc, Nat.add_assoc]

/-- Pops of the items' widths, from a buffer that holds exactly the items, return them in order and empty it; only
the buffer and the result are written. -/
theorem execTrace_pops {s : State} {items : List (Nat × Nat)}
    (hb : s.buffer = ⟨packed items, totalWidth items⟩) :
    ∃ r, execTrace (items.map fun x => Instr.pop x.1) s =
      some (items.map fun x => MicroResult.rdata (x.2 &&& mask x.1), (s.setBuffer ⟨0, 0⟩).setResult r) := by
  induction items generalizing s with
  | nil => exact ⟨s.result, by rw [show (⟨0, 0⟩ : BitBuffer) = s.buffer from hb.symm]; rfl⟩
  | cons x xs ih =>
    have hpop : s.buffer.pop x.1 = .ok (x.2 &&& mask x.1, ⟨packed xs, totalWidth xs⟩) := by
      rw [pop_eq (by simp [hb]), peek_eq_mod, hb, packed_cons_mod, packed_cons_div, and_mask]
      simp
    obtain ⟨r, hr⟩ := ih (s := (s.setBuffer _).setResult (.rdata (x.2 &&& mask x.1))) rfl
    refine ⟨r, ?_⟩
    rw [List.map_cons, execTrace_cons (exec_pop_of_ok hpop), hr]
    rfl

/-- Settles O17: the pushes leave the items packed in the empty buffer, and the pops take them off again. -/
theorem pushesThenPopsRoundTrip : Obligations.PushesThenPopsRoundTrip := by
  intro s items hempty hfit
  obtain ⟨r, hpushes⟩ := execTrace_pushes (s := s) (items := items) (by simp [hempty])
    (by simpa [hempty, totalWidth] using hfit)
  obtain ⟨q, hpops⟩ := execTrace_pops (items := items)
    (s := (s.setBuffer ⟨packed items, totalWidth items⟩).setResult r) rfl
  simp only [hempty, Nat.pow_zero, Nat.one_mul, Nat.zero_add] at hpushes
  exact ⟨_, execTrace_append hpushes hpops, rfl, rfl⟩

end Sys2Proof.Machine
end

section
/-! PROOFS. The scanner's statements about the four modes that await a field (41_scanner.md R83 to R86). SCAN and the
arm row of the mode are one function where `skip` is 0, so each statement needs only what SCAN does in that mode: with
the field buffered it sets the next phase, with fewer bits it waits. -/

namespace Sys2Proof.Machine

variable {s : State} {m next : Mode} {k : Field20} {n : Nat}

/-! ### SCAN and the arm row of the mode -/

/-- All that SCAN does (R81). -/
theorem exec_scan (s : State) : exec .scan s = .next (scan s) := rfl

/-- The arm row of the current mode, with `skip` at 0, is SCAN (R81). -/
theorem exec_arm_eq_scan (hskip : s.scanner.skip = 0) (hmode : s.scanner.mode = m) :
    exec m.arm s = .next (scan s) := by
  rw [scan_of_skip_zero hskip, hmode]
  cases m <;> exact congrArg Host.Outcome.next (whenSelected_of hskip hmode)

/-- Where SCAN sets the phase, it and the arm row write `mode` and `skip` and nothing else. -/
theorem arm_and_scan_setPhase (hskip : s.scanner.skip = 0) (hmode : s.scanner.mode = m)
    (hscan : scan s = setPhase next k s) (hk : k.toNat = n) :
    ∃ t, exec m.arm s = .next t ∧ exec .scan s = .next t ∧ t.scanner.skip.toNat = n ∧ t.scanner.mode = next ∧
      t.scanner.dirFlag = s.scanner.dirFlag ∧ t = { s with scanner := t.scanner } := by
  refine ⟨setPhase next k s, ?_, ?_, hk, rfl, rfl, rfl⟩
  · rw [exec_arm_eq_scan hskip hmode, hscan]
  · rw [exec_scan, hscan]

/-- Where SCAN waits, so does the arm row. -/
theorem arm_and_scan_wait (hskip : s.scanner.skip = 0) (hmode : s.scanner.mode = m) (hscan : scan s = s) :
    exec m.arm s = .next s ∧ exec .scan s = .next s := by
  constructor
  · rw [exec_arm_eq_scan hskip hmode, hscan]
  · rw [exec_scan, hscan]

/-! ### SCAN by mode (R81) -/

theorem scan_awaitingSize (hskip : s.scanner.skip = 0) (hmode : s.scanner.mode = .awaitingSize) :
    scan s = armAwaitingSize s := by rw [scan_of_skip_zero hskip, hmode]

theorem scan_awaitingShortLength (hskip : s.scanner.skip = 0) (hmode : s.scanner.mode = .awaitingShortLength) :
    scan s = armAwaitingShortLength s := by rw [scan_of_skip_zero hskip, hmode]

theorem scan_awaitingExtendedLength (hskip : s.scanner.skip = 0)
    (hmode : s.scanner.mode = .awaitingExtendedLength) :
    scan s = armAwaitingExtendedLength s := by rw [scan_of_skip_zero hskip, hmode]

theorem scan_awaitingDirOffset (hskip : s.scanner.skip = 0) (hmode : s.scanner.mode = .awaitingDirOffset) :
    scan s = armAwaitingDirOffset s := by rw [scan_of_skip_zero hskip, hmode]

/-! ### `skip` from a peeked length (R52) -/

theorem shortLengthSkip_peek8_toNat (b : BitBuffer) :
    (shortLengthSkip (peek8 b)).toNat = 2 + 2 * (b.value % 2 ^ 8) := by
  rw [shortLengthSkip_toNat, peek8_toNat]

theorem extendedLengthSkip_peek8_toNat (b : BitBuffer) :
    (extendedLengthSkip (peek8 b)).toNat = 4 + 2 * (b.value % 2 ^ 8) := by
  rw [extendedLengthSkip_toNat, peek8_toNat]

/-! ### The four statements -/

/-- Settles O21: with 20 bits the size becomes `skip`, with fewer SCAN waits. -/
theorem awaitingSizeArmReadsTheSize : Obligations.AwaitingSizeArmReadsTheSize := by
  constructor
  · intro s hmode hskip hbits
    have hscan := (scan_awaitingSize hskip hmode).trans (armAwaitingSize_of_le hbits)
    exact arm_and_scan_setPhase (m := .awaitingSize) hskip hmode hscan (peek20_toNat s.buffer)
  · intro s hmode hskip hbits
    have hscan := (scan_awaitingSize hskip hmode).trans (armAwaitingSize_of_lt hbits)
    exact arm_and_scan_wait (m := .awaitingSize) hskip hmode hscan

/-- Settles O22: with 8 bits the length gives `skip`, with fewer SCAN waits. -/
theorem awaitingShortLengthArmReadsTheLength : Obligations.AwaitingShortLengthArmReadsTheLength := by
  constructor
  · intro s hmode hskip hbits
    have hscan := (scan_awaitingShortLength hskip hmode).trans (armAwaitingShortLength_of_le hbits)
    exact arm_and_scan_setPhase (m := .awaitingShortLength) hskip hmode hscan (shortLengthSkip_peek8_toNat s.buffer)
  · intro s hmode hskip hbits
    have hscan := (scan_awaitingShortLength hskip hmode).trans (armAwaitingShortLength_of_lt hbits)
    exact arm_and_scan_wait (m := .awaitingShortLength) hskip hmode hscan

/-- Settles O23: with 8 bits the length gives `skip`, with fewer SCAN waits. -/
theorem awaitingExtendedLengthArmReadsTheLength : Obligations.AwaitingExtendedLengthArmReadsTheLength := by
  constructor
  · intro s hmode hskip hbits
    have hscan := (scan_awaitingExtendedLength hskip hmode).trans (armAwaitingExtendedLength_of_le hbits)
    exact arm_and_scan_setPhase (m := .awaitingExtendedLength) hskip hmode hscan
      (extendedLengthSkip_peek8_toNat s.buffer)
  · intro s hmode hskip hbits
    have hscan := (scan_awaitingExtendedLength hskip hmode).trans (armAwaitingExtendedLength_of_lt hbits)
    exact arm_and_scan_wait (m := .awaitingExtendedLength) hskip hmode hscan

/-- Settles O24: with 20 bits the offset becomes `skip` and an extended length is due next, with fewer SCAN waits. -/
theorem awaitingDirOffsetArmReadsTheOffset : Obligations.AwaitingDirOffsetArmReadsTheOffset := by
  constructor
  · intro s hmode hskip hbits
    have hscan := (scan_awaitingDirOffset hskip hmode).trans (armAwaitingDirOffset_of_le hbits)
    exact arm_and_scan_setPhase (m := .awaitingDirOffset) hskip hmode hscan (peek20_toNat s.buffer)
  · intro s hmode hskip hbits
    have hscan := (scan_awaitingDirOffset hskip hmode).trans (armAwaitingDirOffset_of_lt hbits)
    exact arm_and_scan_wait (m := .awaitingDirOffset) hskip hmode hscan

end Sys2Proof.Machine
end

section
/-! PROOFS. The statements about the checksum accumulator (42_checksum.md): what UPD, FINAL and SIZE do (R96, R98,
R99), and that a nibble sequence takes one checksum to one checksum whatever else the machine holds (R100). A run of
UPDs is a fold of the recurrence over the nibbles, and the fold reads the checksum alone. -/

namespace Sys2Proof.Machine

/-! ### The selects and the operations -/

/-- Select 0110 is UPD of the nibble bus (R60). -/
theorem decodeMicro_six (bus : OperandBus) : decodeMicro 6 bus = .upd bus.nib := rfl

/-- Select 0111 is FINAL whatever stands on the operand buses (R60). -/
theorem decodeMicro_seven (bus : OperandBus) : decodeMicro 7 bus = .final := rfl

/-- Select 1000 is SIZE whatever stands on the operand buses (R60). -/
theorem decodeMicro_eight (bus : OperandBus) : decodeMicro 8 bus = .size := rfl

/-- All that UPD does (R96). -/
theorem exec_upd (nib : Nibble) (s : State) :
    exec (.upd nib) s = .next (s.setChecksum ⟨crcStep s.checksum.crc nib, s.checksum.nibbleCount + 1⟩) := rfl

/-- All that FINAL does (R98). -/
theorem exec_final (s : State) : exec .final s = .next (s.setResult (.checksum s.checksum.crc)) := rfl

/-- All that SIZE does (R99). -/
theorem exec_size (s : State) :
    exec .size s = .next (s.setResult (.size s.checksum.byteSize s.checksum.hasHalfByte)) := rfl

/-! ### UPD -/

/-- The product of the recurrence fits 16 bits (R97). -/
theorem and_fifteen_mul_lt (x : Nat) : (x &&& 0xF) * 0x1081 < 2 ^ 16 := by
  have hle : x &&& 0xF ≤ 0xF := Nat.and_le_right
  omega

/-- The recurrence in natural numbers: the machine's 16-bit product loses nothing (R96, R97). -/
theorem crcStep_toNat (crc : BitVec 16) (nib : Nibble) :
    (crcStep crc nib).toNat = (crc.toNat >>> 4) ^^^ (((crc.toNat ^^^ nib.toNat) &&& 0xF) * 0x1081) := by
  have hnib : (nib.setWidth 16).toNat = nib.toNat := BitVec.toNat_setWidth_of_le (by decide)
  have hprod : (((crc ^^^ nib.setWidth 16) &&& 0xF) * 0x1081).toNat =
      ((crc.toNat ^^^ nib.toNat) &&& 0xF) * 0x1081 := by
    rw [BitVec.toNat_mul, BitVec.toNat_and, BitVec.toNat_xor, hnib]
    exact Nat.mod_eq_of_lt (and_fifteen_mul_lt _)
  rw [crcStep, BitVec.toNat_xor, BitVec.toNat_ushiftRight, hprod]

/-- Settles O31: UPD writes the recurrence's value, exact in natural numbers, and the count one higher. -/
theorem updFollowsTheRecurrence : Obligations.UpdFollowsTheRecurrence :=
  ⟨decodeMicro_six, fun s nib => ⟨_, exec_upd nib s, crcStep_toNat s.checksum.crc nib, rfl, rfl⟩⟩

/-! ### A run of UPDs -/

/-- All that one UPD per nibble does: `crc` is the fold of the recurrence from its value at the start, and the count
grows by the nibbles. -/
theorem execSeq_upds (nibs : List Nibble) (s : State) :
    execSeq (nibs.map Instr.upd) s =
      .next (s.setChecksum ⟨nibs.foldl crcStep s.checksum.crc, s.checksum.nibbleCount + nibs.length⟩) := by
  induction nibs generalizing s with
  | nil => rfl
  | cons nib nibs ih =>
    rw [List.map_cons, execSeq_cons (exec_upd nib s), ih, List.length_cons, Nat.add_comm nibs.length,
      ← Nat.add_assoc]
    rfl

/-- Settles O36: both runs end at the same fold, since both start it from the same checksum. -/
theorem checksumDependsOnTheNibblesAlone : Obligations.ChecksumDependsOnTheNibblesAlone := by
  intro nibs s₁ s₂ hcrc
  exact ⟨_, _, execSeq_upds nibs s₁, execSeq_upds nibs s₂, congrArg (nibs.foldl crcStep) hcrc⟩

/-! ### FINAL and SIZE -/

/-- Settles O33: FINAL writes the checksum register to the result and nothing else. -/
theorem finalReportsTheChecksum : Obligations.FinalReportsTheChecksum :=
  ⟨decodeMicro_seven, fun s => ⟨_, exec_final s, rfl, rfl⟩⟩

/-- The size report's two parts make up the nibble count (R99). -/
theorem nibbleCount_eq_two_mul_byteSize_add (c : Checksum) :
    c.nibbleCount = 2 * c.byteSize + c.hasHalfByte.toNat := by
  have hhalf : c.hasHalfByte.toNat = c.nibbleCount % 2 := by
    rcases Nat.mod_two_eq_zero_or_one c.nibbleCount with h | h <;> simp [Checksum.hasHalfByte, h]
  rw [hhalf, Checksum.byteSize, Nat.div_add_mod]

/-- Settles O34: SIZE writes the halved count and its parity to the result, and they determine the count. -/
theorem sizeReportsHalfTheNibbleCount : Obligations.SizeReportsHalfTheNibbleCount :=
  ⟨decodeMicro_eight, fun s =>
    ⟨_, _, _, exec_size s, rfl, nibbleCount_eq_two_mul_byteSize_add s.checksum, rfl⟩⟩

end Sys2Proof.Machine
end

section
/-! PROOFS. The result of a run (43_stream_decoder.md R113): one equation of `runResult` per case, exclusive of each
other since the recorded error decides before `done`; and the parity bit of the size report as a number. -/

namespace Sys2Proof.Machine

/-- The parity bit of the size report as a number (R99): what halving the count leaves over. -/
theorem Checksum.hasHalfByte_toNat (c : Checksum) : c.hasHalfByte.toNat = c.nibbleCount % 2 := by
  have hcount : c.nibbleCount = 2 * (c.nibbleCount / 2) + c.hasHalfByte.toNat :=
    nibbleCount_eq_two_mul_byteSize_add c
  omega

theorem runResult_of_err {s : State} {e : ErrorKind} (herr : s.err = some e) : runResult s = .error e := by
  simp only [runResult, herr]

theorem runResult_of_done {s : State} (herr : s.err = none) (hdone : s.done = true) :
    runResult s = .ok s.checksum.crc s.checksum.byteSize s.checksum.hasHalfByte := by
  simp only [runResult, herr, hdone, if_true]

theorem runResult_of_open {s : State} (hopen : RunOpen s) : runResult s = .unfinished := by
  obtain ⟨herr, hdone⟩ := hopen
  simp [runResult, herr, hdone]

/-- Settles O50: an error is the whole result; without one, `done` decides between the checksum with the size and
no result yet. -/
theorem runHasAResultOnlyWhenItEnded : Obligations.RunHasAResultOnlyWhenItEnded := fun s =>
  ⟨fun herr hdone => ⟨_, _, runResult_of_done herr hdone, rfl, s.checksum.hasHalfByte_toNat⟩,
    fun _ herr => runResult_of_err herr, runResult_of_open⟩

end Sys2Proof.Machine
end

section
/-! PROOFS. The encoding (30_encoding.md): decode and encode agree on every row of the opcode table (R55, R59 to R61),
the command word by its mask (R59), and the lookup of the prologue table on its codes and off them (R56). -/

namespace Sys2Proof.Machine

/-! ### The prologue table (R55, R56) -/

/-- A code of the table decodes to the operation of its row. -/
theorem decodePrologue_of_row {pt : PrologueTable} (hd : pt.CodesDistinct) {c : Field20} {n : PrologueName}
    (hm : (c, n) ∈ prologueRows pt) : decodePrologue pt c = n.instr c := by
  rw [decodePrologue, classify_of_mem hd hm]

theorem lookup_of_row {pt : PrologueTable} (hd : pt.CodesDistinct) {c : Field20} {n : PrologueName}
    (hm : (c, n) ∈ prologueRows pt) : lookup pt c = entryOf pt n := by
  rw [lookup, classify_of_mem hd hm]

theorem lookup_of_not_mem {pt : PrologueTable} {c : Field20} (h : c ∉ pt.codes) : lookup pt c = defaultEntry := by
  rw [lookup, classify_of_not_mem h]
  rfl

/-! ### The command word (R59) -/

/-- Bits 9:8 of a command word, read through the mask of the opcode table. -/
theorem cmd_of_masked {w : BitVec 10} {cmd : BitVec 2} (h : w &&& 0x300 = commandWord cmd 0) :
    w.extractLsb' 8 2 = cmd := by
  have hcmd := congrArg (BitVec.extractLsb' 8 2) h
  have hones : (0x300 : BitVec 10).extractLsb' 8 2 = BitVec.allOnes 2 := rfl
  rw [BitVec.extractLsb'_and, hones, BitVec.and_allOnes] at hcmd
  rw [hcmd, commandWord, BitVec.extractLsb'_append_eq_left]

/-- Every command word decodes to a command, the only rows an assembled CORE meets. -/
theorem decodeCommand_cases (w : BitVec 10) :
    decodeCommand w = .nop ∨ (∃ b, decodeCommand w = .byte b) ∨ decodeCommand w = .eos ∨
      decodeCommand w = .reset := by
  unfold decodeCommand
  split
  · exact .inl rfl
  · exact .inr (.inl ⟨_, rfl⟩)
  · exact .inr (.inr (.inl rfl))
  · exact .inr (.inr (.inr rfl))

theorem decodeCommand_byteWord (b : Byte) : decodeCommand (commandWord 1 b) = .byte b := by
  rw [decodeCommand, commandWord, BitVec.extractLsb'_append_eq_left, BitVec.extractLsb'_append_eq_right]
  rfl

/-! ### Decoding an encoding -/

/-- An operation with a word of its own comes back from it. -/
theorem decode_encode {p : Params} {i : Instr} (hd : p.table.CodesDistinct) (hw : WellFormed p i = true)
    (harm : i.armMode = none) : decode p.table (encode p.table i) = i := by
  cases i
  case byte b => exact decodeCommand_byteWord b
  case pSize0 => exact decodePrologue_of_row hd (mem_rows_size _ 0)
  case pSize1 => exact decodePrologue_of_row hd (mem_rows_size _ 1)
  case pSize2 => exact decodePrologue_of_row hd (mem_rows_size _ 2)
  case pSize3 => exact decodePrologue_of_row hd (mem_rows_size _ 3)
  case pSize4 => exact decodePrologue_of_row hd (mem_rows_size _ 4)
  case pSize5 => exact decodePrologue_of_row hd (mem_rows_size _ 5)
  case pSize6 => exact decodePrologue_of_row hd (mem_rows_size _ 6)
  case pSize7 => exact decodePrologue_of_row hd (mem_rows_size _ 7)
  case pSize8 => exact decodePrologue_of_row hd (mem_rows_size _ 8)
  case pAscic0 => exact decodePrologue_of_row hd (mem_rows_ascic _ 0)
  case pAscic1 => exact decodePrologue_of_row hd (mem_rows_ascic _ 1)
  case pAscic2 => exact decodePrologue_of_row hd (mem_rows_ascic _ 2)
  case pDir => exact decodePrologue_of_row hd (mem_rows_dir _)
  case pFix0 => exact decodePrologue_of_row hd (mem_rows_fix _ 0)
  case pFix1 => exact decodePrologue_of_row hd (mem_rows_fix _ 1)
  case pFix2 => exact decodePrologue_of_row hd (mem_rows_fix _ 2)
  case pFix3 => exact decodePrologue_of_row hd (mem_rows_fix _ 3)
  case pFix4 => exact decodePrologue_of_row hd (mem_rows_fix _ 4)
  case pFix5 => exact decodePrologue_of_row hd (mem_rows_fix _ 5)
  case pFix6 => exact decodePrologue_of_row hd (mem_rows_fix _ 6)
  case pFix7 => exact decodePrologue_of_row hd (mem_rows_fix _ 7)
  case pFix8 => exact decodePrologue_of_row hd (mem_rows_fix _ 8)
  case pDefault c =>
    have hc : c ∉ p.table.codes := by simpa [WellFormed] using hw
    show decodePrologue p.table c = .pDefault c
    rw [decodePrologue, classify_of_not_mem hc]
    rfl
  case scanScanning | scanAwaitingSize | scanAwaitingShortLength | scanAwaitingExtendedLength
      | scanAwaitingDirOffset => exact absurd harm (by simp [Instr.armMode])
  all_goals rfl

/-- The row with an arm's mode is that arm. -/
theorem eq_arm_of_armMode {i : Instr} {m : Mode} (h : i.armMode = some m) : i = m.arm := by
  cases i <;> cases h <;> rfl

/-- An arm row has SCAN's word, and `mode` with `skip` at 0 selects it (R60). -/
theorem decode_encode_arm (pt : PrologueTable) (m : Mode) :
    decode pt (encode pt m.arm) = .scan ∧ selectArm m 0 (decode pt (encode pt m.arm)) = m.arm := by
  cases m <;> exact ⟨rfl, rfl⟩

/-- Idle buses fit every CORE. -/
theorem idle_fits (p : Params) : OperandBus.idle.Fits p :=
  ⟨Nat.two_pow_pos p.nbw, Nat.two_pow_pos p.cap⟩

/-- The buses of a well-formed operation carry its operands (R60, R70). -/
theorem encode_fits {p : Params} {i : Instr} {sel : BitVec 4} {bus : OperandBus} (hw : WellFormed p i = true)
    (he : encode p.table i = .port (.micro sel bus)) : bus.Fits p := by
  obtain ⟨hidle, hidle'⟩ := idle_fits p
  cases i
  case push n v =>
    cases he
    simpa [WellFormed] using hw
  case pop n | peek n =>
    cases he
    exact ⟨by simpa [WellFormed] using hw, hidle'⟩
  case unop | rem | scan | scanScanning | scanAwaitingSize | scanAwaitingShortLength | scanAwaitingExtendedLength
      | scanAwaitingDirOffset | upd | final | size | reserved9 | reservedA | reservedB | reservedC | reservedD
      | reservedE | reservedF =>
    cases he
    exact ⟨hidle, hidle'⟩
  all_goals cases he

/-- Settles O1: by the kind of row, with the arm rows through SCAN's word. -/
theorem decodeOfEncodeReturnsTheInstruction : Obligations.DecodeOfEncodeReturnsTheInstruction := by
  intro p i hd hw
  refine ⟨decode_encode hd hw, fun m hm => ?_, fun sel bus he => encode_fits hw he⟩
  rw [eq_arm_of_armMode hm]
  exact decode_encode_arm p.table m

/-- Settles O2: the twelve words, evaluated. -/
theorem wordsOfTheOpcodeTableDecode : Obligations.WordsOfTheOpcodeTableDecode := by
  unfold Obligations.WordsOfTheOpcodeTableDecode
  decide

/-- Settles O3: the mask leaves the two bits that choose the command. -/
theorem everyCommandWordMatchesItsMask : Obligations.EveryCommandWordMatchesItsMask := by
  intro w
  refine ⟨fun h => ?_, fun h => ?_, fun h => ?_, fun h => ?_⟩
  · rw [decodeCommand, cmd_of_masked (cmd := 0) h]
    rfl
  · rw [decodeCommand, cmd_of_masked (cmd := 1) h, BitVec.setWidth_eq_extractLsb' (by decide)]
    rfl
  · rw [decodeCommand, cmd_of_masked (cmd := 2) h]
    rfl
  · rw [decodeCommand, cmd_of_masked (cmd := 3) h]
    rfl

/-- Settles O4: each class by its row, every other code by the default, and any code's operation through SCAN's
frame. -/
theorem lookupIsTheTableOrTheDefault : Obligations.LookupIsTheTableOrTheDefault := by
  intro pt c hd
  refine ⟨?_, ?_, ?_, ?_, lookup_of_not_mem, fun s => ?_⟩
  · rintro i rfl
    exact lookup_of_row hd (mem_rows_size pt i)
  · rintro i rfl
    exact lookup_of_row hd (mem_rows_ascic pt i)
  · rintro rfl
    exact lookup_of_row hd (mem_rows_dir pt)
  · rintro i rfl
    exact lookup_of_row hd (mem_rows_fix pt i)
  · obtain ⟨t, hexec, hscans⟩ := scansTo_prologue s c (classify pt c)
    obtain ⟨_, _, herr, _⟩ := hscans.frame
    exact ⟨t, hexec, herr⟩

end Sys2Proof.Machine
end

section
/-! PROOFS. The case analysis over all operations as one rule (from `exec_cases`): what holds of every kind of next
state holds of the next state of every operation. The statements that speak of all 48 rows cite it. -/

namespace Sys2Proof.Machine

/-- To show something of an operation and its next state, it is enough to show it where nothing changes, where only
the result is written, and for each kind of operation that writes a register. -/
theorem exec_elim {i : Instr} {s t : State} {P : Instr → State → Prop} (h : exec i s = .next t)
    (same : ∀ i, P i s)
    (report : ∀ i r, P i (s.setResult r))
    (reset : P .reset ((State.resetWith s.params).setPort s.port))
    (byte : ∀ b, RunOpen s → P (.byte b) (ingest b s))
    (eos : RunOpen s → P .eos (endStream s))
    (push : ∀ n v c, s.buffer.push s.params.cap n v = .ok c → P (.push n v) ((s.setBuffer c).setResult .ok))
    (pop : ∀ n r c, s.buffer.pop n = .ok (r, c) → P (.pop n) ((s.setBuffer c).setResult (.rdata r)))
    (upd : ∀ n, P (.upd n) (s.setChecksum (s.checksum.update n)))
    (scan : ∀ i u, WritesScannerOnly i → ScansTo s u → P i u) : P i t := by
  rcases exec_cases h with ⟨_, rfl⟩ | ⟨rfl, rfl⟩ | ⟨b, rfl, ⟨_, rfl⟩ | ⟨hopen, rfl⟩⟩ |
    ⟨rfl, ⟨_, rfl⟩ | ⟨hopen, rfl⟩⟩ | ⟨n, v, rfl, ⟨c, hpush, rfl⟩ | ⟨_, rfl⟩⟩ |
    ⟨n, rfl, ⟨r, c, hpop, rfl⟩ | ⟨_, rfl⟩⟩ | ⟨_, r, rfl⟩ | ⟨n, rfl, rfl⟩ | ⟨hi, hscans⟩
  · exact same i
  · exact reset
  · exact same _
  · exact byte b (ended_eq_false_iff.mp hopen)
  · exact same _
  · exact eos (ended_eq_false_iff.mp hopen)
  · exact push n v c hpush
  · exact report _ _
  · exact pop n r c hpop
  · exact report _ _
  · exact report i r
  · exact upd n
  · exact scan i t hi hscans

end Sys2Proof.Machine
end

section
/-! PROOFS. What every step keeps (10_state.md section 4): the buffer stays sound under every operation (R12, R25), and
an assembled CORE stays between two commands (R18, R26), so that no command overflows or underflows (60_exceptions.md
R122, R123). The bound on the fill level is inductive because a SCAN that reads a field leaves a mode whose bound, with
the nibbles it owes, covers what is held. -/

namespace Sys2Proof.Machine

variable {s t : State}

/-! ### The buffer stays sound (R12, R25) -/

/-- Soundness of the buffer reads the buffer and the capacity alone. -/
theorem bufferSound_of_eq (hbuffer : t.buffer = s.buffer) (hparams : t.params = s.params) (h : BufferSound s) :
    BufferSound t := by
  unfold BufferSound
  rwa [hbuffer, hparams]

theorem bufferSound_of_push {c : BitBuffer} {n v : Nat} (hbuffer : t.buffer = c) (hparams : t.params = s.params)
    (hpush : s.buffer.push s.params.cap n v = .ok c) (h : BufferSound s) : BufferSound t := by
  obtain ⟨_, hbelow⟩ := h
  obtain ⟨hfit, _, hfill⟩ := push_cases hpush
  unfold BufferSound
  rw [hbuffer, hparams]
  exact ⟨by omega, push_below_fill hbelow hpush⟩

theorem bufferSound_of_pop {c : BitBuffer} {n r : Nat} (hbuffer : t.buffer = c) (hparams : t.params = s.params)
    (hpop : s.buffer.pop n = .ok (r, c)) (h : BufferSound s) : BufferSound t := by
  obtain ⟨hle, hbelow⟩ := h
  obtain ⟨_, _, _, hfill⟩ := pop_cases hpop
  unfold BufferSound
  rw [hbuffer, hparams]
  exact ⟨by omega, pop_below_fill hbelow hpop⟩

theorem drain_keeps_bufferSound (h : BufferSound s) : BufferSound (drain s) := by
  obtain ⟨hle, hbelow⟩ := h
  obtain ⟨k, _, hfill, hvalue, _, _, _, _, _, _, hparams, _⟩ := drain_account s
  refine ⟨by rw [hparams]; omega, ?_⟩
  rwa [hvalue, Nat.div_lt_iff_lt_mul (Nat.two_pow_pos _), ← Nat.pow_add, hfill]

theorem ingest_keeps_bufferSound (b : Byte) (h : BufferSound s) : BufferSound (ingest b s) := by
  obtain ⟨_, _, _, _, ⟨_, buf, hpush, hdrain, _⟩ | ⟨_, hraise⟩⟩ := ingest_frame b s
  · obtain ⟨hbuffer, _, _, _, hparams, _⟩ := beforeDrain_frame buf s
    rw [hdrain]
    exact drain_keeps_bufferSound (bufferSound_of_push hbuffer hparams hpush h)
  · rw [hraise]
    exact h

/-- What EOS leaves alone. -/
theorem endStream_frame (s : State) :
    (endStream s).buffer = s.buffer ∧ (endStream s).scanner = s.scanner ∧ (endStream s).checksum = s.checksum ∧
      (endStream s).params = s.params ∧ (endStream s).result = s.result ∧ (endStream s).port = s.port := by
  unfold endStream
  split <;> exact ⟨rfl, rfl, rfl, rfl, rfl, rfl⟩

/-- EOS with a 1 bit held (R108). -/
theorem endStream_of_ne_zero (h : s.buffer.value ≠ 0) : endStream s = raise .formatError s := if_pos h

/-- EOS with no 1 bit held (R108). -/
theorem endStream_of_zero (h : s.buffer.value = 0) : endStream s = s.setDone true := if_neg (not_not.mpr h)

/-- Every operation keeps the buffer sound. -/
theorem exec_keeps_bufferSound {i : Instr} (hsound : BufferSound s) (h : exec i s = .next t) : BufferSound t := by
  refine exec_elim (P := fun _ u => BufferSound u) h ?same ?report ?reset ?byte ?eos ?push ?pop ?upd ?scan
  case same => exact fun _ => hsound
  case report => exact fun _ _ => hsound
  case reset => exact ⟨Nat.zero_le _, Nat.two_pow_pos 0⟩
  case byte => exact fun b _ => ingest_keeps_bufferSound b hsound
  case eos =>
    obtain ⟨hbuffer, _, _, hparams, _⟩ := endStream_frame s
    exact fun _ => bufferSound_of_eq hbuffer hparams hsound
  case push => exact fun _ _ _ hpush => bufferSound_of_push (s := s) rfl rfl hpush hsound
  case pop => exact fun _ _ _ hpop => bufferSound_of_pop (s := s) rfl rfl hpop hsound
  case upd => exact fun _ => hsound
  case scan =>
    intro _ u _ hscans
    obtain ⟨hbuffer, _, _, _, hparams, _⟩ := hscans.frame
    exact bufferSound_of_eq hbuffer hparams hsound

/-- Settles O52: a step is nothing, or an operation on the state with the head of the port taken. -/
theorem everyStepKeepsTheBufferSound : Obligations.EveryStepKeepsTheBufferSound := by
  intro s t hsound h
  rcases step_cases s with ⟨_, hstep⟩ | ⟨w, rest, _, hstep⟩
  · rw [hstep] at h
    cases h
    exact hsound
  · rw [hstep] at h
    exact exec_keeps_bufferSound (s := s.setPort rest) hsound h

/-! ### An open run between two bytes -/

/-- A run that still takes bytes: the conditions between two commands (R26), whatever waits at the port. -/
structure Streaming (s : State) : Prop where
  legalCap : 32 ≤ s.params.cap
  sound : BufferSound s
  atBoundary : AtBoundary s
  runOpen : RunOpen s

theorem boundaryFill_bounds (m : Mode) : 12 ≤ boundaryFill m ∧ boundaryFill m ≤ 24 := by
  cases m <;> decide

/-- At a boundary a byte always fits (R122). -/
theorem Streaming.room (h : Streaming s) : s.buffer.fillBits + 8 ≤ s.params.cap := by
  obtain ⟨hcap, _, ⟨_, _, hbound⟩, _⟩ := h
  have := (boundaryFill_bounds s.scanner.mode).2
  omega

/-- A SCAN of what is held after a PUSH leaves a mode whose bound, with the nibbles SCAN found owed, covers the fill
level: the step that makes R26 (c) inductive. -/
theorem fillBits_le_after_scan (hskip : s.scanner.skip = 0) (hpushed : 8 ≤ s.buffer.fillBits)
    (hfour : s.buffer.fillBits % 4 = 0) (hbound : s.buffer.fillBits ≤ boundaryFill s.scanner.mode + 8) :
    s.buffer.fillBits ≤ boundaryFill (scan s).scanner.mode + 4 * (scan s).scanner.skip.toNat := by
  rcases scan_outcomes hskip with ⟨hscan, hfew⟩ | ⟨hmode, _, hfive, hext, hdir⟩ | ⟨hmode, _, hnext⟩ |
    ⟨hmode, _, hnext, _⟩ | ⟨hmode, _, hnext, hfour'⟩ | ⟨hmode, _, hnext⟩
  case inl =>
    have hshort : s.scanner.mode ≠ .awaitingShortLength := fun hmode => by
      have hread := (scan_awaitingShortLength hskip hmode).trans (armAwaitingShortLength_of_le hpushed)
      rw [hscan] at hread
      have := congrArg (fun u : State => u.scanner.mode) hread
      simp [hmode, setPhase] at this
    rw [hscan]
    cases hmode : s.scanner.mode
    case awaitingShortLength => exact absurd hmode hshort
    all_goals
      simp only [hmode, boundaryFill] at hbound ⊢
      omega
  case inr.inl =>
    rw [hmode] at hbound
    cases hnext : (scan s).scanner.mode <;> simp only [boundaryFill] at hbound ⊢
    case awaitingExtendedLength => exact absurd hnext hext
    case awaitingDirOffset =>
      have height : (scan s).scanner.skip.toNat = 8 := by rw [hdir hnext]; rfl
      omega
    all_goals omega
  all_goals
    rw [hmode] at hbound
    rw [hnext]
    simp only [boundaryFill] at hbound ⊢
    omega

/-- The same for the state the drain of a BYTE starts from, whether or not the BYTE scanned. -/
theorem fillBits_le_beforeDrain {buf : BitBuffer} (hb : AtBoundary s) (hfill : buf.fillBits = s.buffer.fillBits + 8) :
    buf.fillBits ≤
      boundaryFill (beforeDrain buf s).scanner.mode + 4 * (beforeDrain buf s).scanner.skip.toNat := by
  obtain ⟨hfour, hempty, hbound⟩ := hb
  unfold beforeDrain
  split
  next hskip =>
    have h := fillBits_le_after_scan (s := s.setBuffer buf) hskip
    simp only [State.setBuffer_buffer, State.setBuffer_scanner] at h
    exact h (by omega) (by omega) (by omega)
  next hskip =>
    have hzero := hempty hskip
    have := (boundaryFill_bounds s.scanner.mode).1
    simp only [State.setBuffer_scanner]
    omega

/-- A byte leaves an open run open and at a boundary (R26). -/
theorem ingest_streaming (b : Byte) (h : Streaming s) : Streaming (ingest b s) := by
  have hroom := h.room
  obtain ⟨hcap, hsound, hb, herr, hdone⟩ := h
  obtain ⟨buf, k, _, _, hbuf, _, hfill, _, hskip, _, hmode, _, herr', hdone', hparams, _, _, hend⟩ :=
    ingest_account b hroom
  have hbefore := fillBits_le_beforeDrain hb hbuf
  rw [← hmode] at hbefore
  obtain ⟨hfour, _, _⟩ := hb
  refine ⟨by rwa [hparams], ingest_keeps_bufferSound b hsound, ⟨by omega, fun hne => ?_, ?_⟩, herr'.trans herr,
    hdone'.trans hdone⟩
  · rcases hend with hzero | hfew
    · exact absurd hzero hne
    · omega
  · rcases hend with hzero | hfew
    · have : (ingest b s).scanner.skip.toNat = 0 := by rw [hzero]; rfl
      omega
    · omega

/-! ### Every command, between two commands -/

theorem streaming_of_betweenCommands (h : BetweenCommands s) (hopen : RunOpen s) : Streaming s := by
  obtain ⟨hcap, hsound, hb, _, _⟩ := h
  exact ⟨hcap, hsound, hb, hopen⟩

theorem betweenCommands_of_streaming (h : Streaming s) (hport : OnlyCommandsWaiting s) : BetweenCommands s := by
  obtain ⟨hcap, hsound, hb, herr, _⟩ := h
  exact ⟨hcap, hsound, hb, .inl herr, hport⟩

/-- The status after a command: no error that was not there, unless FormatError (R122, R123). -/
def NoNewBufferError (s t : State) : Prop := t.err = s.err ∨ t.err = none ∨ t.err = some .formatError

theorem byte_betweenCommands (b : Byte) (h : BetweenCommands s) :
    ∃ t, exec (.byte b) s = .next t ∧ BetweenCommands t ∧ NoNewBufferError s t := by
  cases hended : s.ended with
  | true => exact ⟨s, exec_byte_of_ended hended, h, .inl rfl⟩
  | false =>
    have hopen := ended_eq_false_iff.mp hended
    have hs := streaming_of_betweenCommands h hopen
    have ht := ingest_streaming b hs
    obtain ⟨herr, _⟩ := ht.runOpen
    obtain ⟨_, _, _, hport, _⟩ := ingest_frame b s
    obtain ⟨_, _, _, _, hcommands⟩ := h
    refine ⟨_, exec_byte_of_open hopen, betweenCommands_of_streaming ht ?_, .inr (.inl herr)⟩
    unfold OnlyCommandsWaiting
    rwa [hport]

theorem eos_betweenCommands (h : BetweenCommands s) :
    ∃ t, exec .eos s = .next t ∧ BetweenCommands t ∧ NoNewBufferError s t := by
  cases hended : s.ended with
  | true => exact ⟨s, exec_eos_of_ended hended, h, .inl rfl⟩
  | false =>
    have hopen := ended_eq_false_iff.mp hended
    refine ⟨_, exec_eos_of_open hopen, ?_⟩
    obtain ⟨hcap, hsound, hb, _, hport⟩ := h
    obtain ⟨herr, hdone⟩ := hopen
    by_cases hvalue : s.buffer.value = 0
    · rw [endStream_of_zero hvalue]
      exact ⟨⟨hcap, hsound, hb, .inl herr, hport⟩, .inl rfl⟩
    · rw [endStream_of_ne_zero hvalue]
      exact ⟨⟨hcap, hsound, hb, .inr hdone, hport⟩, .inr (.inr rfl)⟩

/-- All that RESET does (R106). -/
theorem exec_reset (s : State) : exec .reset s = .next ((State.resetWith s.params).setPort s.port) := rfl

/-- RESET opens a run from every state with a legal capacity. -/
theorem reset_streaming {port : List PortWord} (hcap : 32 ≤ s.params.cap) :
    Streaming ((State.resetWith s.params).setPort port) :=
  ⟨hcap, ⟨Nat.zero_le _, Nat.two_pow_pos 0⟩, ⟨rfl, fun _ => rfl, Nat.zero_le _⟩, rfl, rfl⟩

/-- Every command answers a next state, between two commands again and with no new buffer error. -/
theorem command_betweenCommands {i : Instr} (h : BetweenCommands s)
    (hi : i = .nop ∨ (∃ b, i = .byte b) ∨ i = .eos ∨ i = .reset) :
    ∃ t, exec i s = .next t ∧ BetweenCommands t ∧ NoNewBufferError s t := by
  rcases hi with rfl | ⟨b, rfl⟩ | rfl | rfl
  · exact ⟨s, rfl, h, .inl rfl⟩
  · exact byte_betweenCommands b h
  · exact eos_betweenCommands h
  · obtain ⟨hcap, _, _, _, hport⟩ := h
    exact ⟨_, exec_reset s, betweenCommands_of_streaming (reset_streaming hcap) hport, .inr (.inl rfl)⟩

/-- A step of an assembled CORE is a command on a state that differs at most in what waits; an idle step is NOP
(60_exceptions.md R135). -/
theorem step_is_command (h : BetweenCommands s) :
    ∃ i u, step s = exec i u ∧ BetweenCommands u ∧ u.err = s.err ∧
      (i = .nop ∨ (∃ b, i = .byte b) ∨ i = .eos ∨ i = .reset) := by
  rcases step_cases s with ⟨_, hstep⟩ | ⟨w, rest, hport, hstep⟩
  · exact ⟨.nop, s, hstep, h, rfl, .inl rfl⟩
  · obtain ⟨hcap, hsound, hb, hends, hcommands⟩ := h
    unfold OnlyCommandsWaiting at hcommands
    rw [hport] at hcommands
    cases w with
    | command c =>
      exact ⟨decodeCommand c, s.setPort rest, hstep,
        ⟨hcap, hsound, hb, hends, fun v hv => hcommands v (List.mem_cons_of_mem _ hv)⟩, rfl, decodeCommand_cases c⟩
    | micro sel bus => exact absurd (hcommands _ List.mem_cons_self) (by simp [PortWord.isCommand])

/-- Settles O53: a step is a command, and every command keeps the conditions. -/
theorem everyStepKeepsTheConditionsBetweenCommands : Obligations.EveryStepKeepsTheConditionsBetweenCommands := by
  intro s t hs h
  obtain ⟨i, u, hstep, hu, _, hi⟩ := step_is_command hs
  obtain ⟨v, hexec, hv, _⟩ := command_betweenCommands hu hi
  rw [hstep, hexec] at h
  cases h
  exact hv

/-- Settles O54: a step is a command, which answers a next state whose error is old, none or FormatError. -/
theorem assembledCoreNeverOverflowsOrUnderflows : Obligations.AssembledCoreNeverOverflowsOrUnderflows := by
  intro s hs
  obtain ⟨i, u, hstep, hu, herr, hi⟩ := step_is_command hs
  obtain ⟨t, hexec, _, hnew⟩ := command_betweenCommands hu hi
  refine ⟨t, hstep.trans hexec, ?_⟩
  unfold NoNewBufferError at hnew
  rw [herr] at hnew
  rcases hnew with h | h | h
  · exact ⟨h ▸ id, h ▸ id⟩
  · simp [h]
  · simp [h]

end Sys2Proof.Machine
end

section
/-! PROOFS. The bit buffer's operations on their own (40_bit_buffer.md R71, R72, R74): where PUSH places its bits, what
POP and PEEK return, the two raising outcomes (R78), and the buffer as a first-in first-out list of bits and of
nibbles (20_memory.md R34, R35). -/

namespace Sys2Proof.Machine

variable {s : State} {n v : Nat}

/-! ### One operation -/

/-- All that a PUSH that fits does (R71). -/
theorem exec_push_of_le (h : s.buffer.fillBits + n ≤ s.params.cap) :
    exec (.push n v) s =
      .next ((s.setBuffer ⟨s.buffer.value ||| ((v % 2 ^ n) <<< s.buffer.fillBits),
        s.buffer.fillBits + n⟩).setResult .ok) := exec_push_of_ok (push_eq h)

/-- All that a POP of held bits does (R72). -/
theorem exec_pop_of_le (h : n ≤ s.buffer.fillBits) :
    exec (.pop n) s =
      .next ((s.setBuffer ⟨s.buffer.value / 2 ^ n, s.buffer.fillBits - n⟩).setResult
        (.rdata (s.buffer.value % 2 ^ n))) := by
  rw [← peek_eq_mod]
  exact exec_pop_of_ok (pop_eq h)

/-- All that a POP of more bits than are held does (R72, R78). -/
theorem exec_pop_of_lt (h : s.buffer.fillBits < n) :
    exec (.pop n) s = .next (s.setResult (.error .bufferUnderflow)) := exec_pop_of_error (pop_raises h)

/-- All that PEEK does (R74). -/
theorem exec_peek (n : Nat) (s : State) :
    exec (.peek n) s = .next (s.setResult (.rdata (s.buffer.value % 2 ^ n))) := by
  rw [← peek_eq_mod]
  rfl

/-- Settles O9: the fitting outcome of PUSH. -/
theorem pushPlacesTheMaskedBitsAtTheFillLevel : Obligations.PushPlacesTheMaskedBitsAtTheFillLevel :=
  fun _ _ _ hfit => exec_push_of_le hfit

/-- Settles O10: the raising outcome of PUSH. -/
theorem pushThatDoesNotFitRaisesOverflow : Obligations.PushThatDoesNotFitRaisesOverflow :=
  fun _ _ _ hfull => exec_push_of_error (push_raises hfull)

/-- Settles O11: the succeeding outcome of POP. -/
theorem popReturnsTheLowBitsAndRemovesThem : Obligations.PopReturnsTheLowBitsAndRemovesThem :=
  fun _ _ hheld => exec_pop_of_le hheld

/-- Settles O12: the raising outcome of POP reports the error, which is no data. -/
theorem popOfTooManyBitsFailsWithUnderflow : Obligations.PopOfTooManyBitsFailsWithUnderflow :=
  fun _ _ hfew => ⟨_, exec_pop_of_lt hfew, rfl, fun _ => MicroResult.noConfusion, rfl⟩

/-- Settles O13: the raising outcome of POP writes the result alone. -/
theorem popThatRaisesKeepsEveryRegister : Obligations.PopThatRaisesKeepsEveryRegister :=
  fun _ _ hfew => exec_pop_of_lt hfew

/-- Settles O15: PEEK and POP report the same remainder. -/
theorem peekReadsWhatPopWouldReturn : Obligations.PeekReadsWhatPopWouldReturn :=
  fun s n => ⟨_, exec_peek n s, rfl, fun hheld => ⟨_, exec_pop_of_le hheld, rfl⟩⟩

/-! ### The list of bits (R35) -/

theorem lowBits_mod (n v : Nat) : lowBits n (v % 2 ^ n) = lowBits n v := by
  refine List.map_congr_left fun i hi => ?_
  simp [Nat.testBit_mod_two_pow, List.mem_range.mp hi]

/-- The low bits of a word in two parts: the lowest `m`, then those above them. -/
theorem lowBits_add (m n w : Nat) : lowBits (m + n) w = lowBits m w ++ lowBits n (w / 2 ^ m) := by
  simp [lowBits, List.range_add, Nat.testBit_div_two_pow, Nat.add_comm]

/-- A buffer's bits are the low bits of its value. -/
theorem bits_eq_lowBits (b : BitBuffer) : b.bits = lowBits b.fillBits b.value := rfl

/-- Settles O16: the list of bits splits at the fill level for PUSH, and at the width for POP. -/
theorem bufferIsFirstInFirstOut : Obligations.BufferIsFirstInFirstOut := by
  constructor
  · intro s t n v hsound hfit hexec
    obtain ⟨_, hbelow⟩ := hsound
    rw [exec_push_of_ok (push_eq_add hbelow hfit)] at hexec
    cases hexec
    simp only [bits_eq_lowBits, State.setResult_buffer, State.setBuffer_buffer]
    rw [lowBits_add, ← lowBits_mod s.buffer.fillBits, Nat.add_mul_mod_self_left, lowBits_mod,
      Nat.add_mul_div_left _ _ (Nat.two_pow_pos _), Nat.div_eq_of_lt hbelow, Nat.zero_add, lowBits_mod]
  · intro s t n r _ hheld hexec hr
    rw [exec_pop_of_le hheld] at hexec
    cases hexec
    cases hr
    simp only [bits_eq_lowBits, State.setResult_buffer, State.setBuffer_buffer]
    rw [lowBits_mod, ← lowBits_add, Nat.add_sub_cancel' hheld]

/-! ### Fields as nibbles (R34) -/

/-- Nibbles pushed one by one onto a sound buffer stand above its bits as the field they spell. -/
theorem execSeq_push_nibbles (ns : List Nibble) (s : State) (hbelow : s.buffer.value < 2 ^ s.buffer.fillBits)
    (hfit : s.buffer.fillBits + 4 * ns.length ≤ s.params.cap) :
    ∃ t, execSeq (ns.map fun n => Instr.push 4 n.toNat) s = .next t ∧
      t.buffer.value = s.buffer.value + 2 ^ s.buffer.fillBits * fieldOfNibbles ns := by
  induction ns generalizing s with
  | nil => exact ⟨s, rfl, rfl⟩
  | cons n ns ih =>
    rw [List.length_cons] at hfit
    have hpush := push_eq_add (v := n.toNat) hbelow (by omega : s.buffer.fillBits + 4 ≤ s.params.cap)
    obtain ⟨t, ht, hvalue⟩ := ih ((s.setBuffer _).setResult .ok) (push_below_fill hbelow hpush)
      (by simp only [State.setResult_buffer, State.setBuffer_buffer, State.setResult_params, State.setBuffer_params]
          omega)
    refine ⟨t, (execSeq_cons (exec_push_of_ok hpush)).trans ht, ?_⟩
    simp only [State.setResult_buffer, State.setBuffer_buffer] at hvalue
    rw [hvalue, Nat.mod_eq_of_lt n.isLt, fieldOfNibbles, Nat.pow_add, Nat.mul_add, Nat.add_assoc, Nat.mul_assoc]

theorem fieldOfNibbles_lt (ns : List Nibble) : fieldOfNibbles ns < 2 ^ (4 * ns.length) := by
  induction ns with
  | nil => exact Nat.one_pos
  | cons n ns ih =>
    have hn := n.isLt
    rw [fieldOfNibbles, List.length_cons, Nat.mul_succ, Nat.pow_add]
    omega

theorem fieldOfNibbles_append (ms ns : List Nibble) :
    fieldOfNibbles (ms ++ ns) = fieldOfNibbles ms + 2 ^ (4 * ms.length) * fieldOfNibbles ns := by
  induction ms with
  | nil => simp [fieldOfNibbles]
  | cons m ms ih =>
    rw [List.cons_append, fieldOfNibbles, ih, fieldOfNibbles, List.length_cons, Nat.mul_succ, Nat.pow_add]
    ring

/-- The low nibbles of a field. -/
theorem fieldOfNibbles_append_mod (ms ns : List Nibble) :
    fieldOfNibbles (ms ++ ns) % 2 ^ (4 * ms.length) = fieldOfNibbles ms := by
  rw [fieldOfNibbles_append, Nat.add_mul_mod_self_left, Nat.mod_eq_of_lt (fieldOfNibbles_lt ms)]

/-- Settles O18: the buffer holds the field of the five nibbles, and the peeked fields are its low nibbles. -/
theorem fieldsAreLittleEndianInNibbles : Obligations.FieldsAreLittleEndianInNibbles := by
  intro s a b c d e hempty hcap
  obtain ⟨t, ht, hvalue⟩ := execSeq_push_nibbles [a, b, c, d, e] s (by simp [hempty]) (by simpa [hempty] using hcap)
  have hfield : t.buffer.value = fieldOfNibbles [a, b, c, d, e] := by simpa [hempty] using hvalue
  refine ⟨t, ht, ?_, ?_⟩
  · rw [peek20_toNat, hfield]
    exact fieldOfNibbles_append_mod [a, b, c, d, e] []
  · rw [peek8_toNat, hfield]
    exact fieldOfNibbles_append_mod [a, b] [c, d, e]

end Sys2Proof.Machine
end

section
/-! PROOFS. The scanner's statements about SCAN itself (41_scanner.md R81, R82, R87), about the prologue operations
(30_encoding.md R55, R56), and about the mode graph (R88). With a prologue due, SCAN is the writes of one triple of
the table, and so is the operation of the code it found. -/

namespace Sys2Proof.Machine

variable {s : State}

/-! ### SCAN where a prologue is due -/

theorem prologueDue_of (hmode : s.scanner.mode = .scanning) (hskip : s.scanner.skip = 0)
    (hbits : 20 ≤ s.buffer.fillBits) : prologueDue s = true := prologueDue_iff.mpr ⟨hskip, hmode, hbits⟩

/-- With a prologue due, SCAN writes the triple of the low 20 bits (R82). -/
theorem scan_of_due (h : prologueDue s = true) :
    scan s = applyEntry (lookup s.params.table (peek20 s.buffer)) s := by
  obtain ⟨hskip, hmode, hbits⟩ := prologueDue_iff.mp h
  rw [scan_of_skip_zero hskip, hmode]
  exact armScanning_of_le hbits

/-- With a prologue due, the operation of a code writes the code's triple. -/
theorem exec_decodePrologue_of_due (pt : PrologueTable) (c : Field20) (hpt : s.params.table = pt)
    (h : prologueDue s = true) : exec (decodePrologue pt c) s = .next (applyEntry (lookup pt c) s) := by
  rw [decodePrologue, exec_prologue_instr, takePrologue_of_due h, hpt]
  rfl

theorem peek20_eq_of_toNat {b : BitBuffer} {p : Field20} (h : p.toNat = b.value % 2 ^ 20) : peek20 b = p :=
  BitVec.eq_of_toNat_eq ((peek20_toNat b).trans h.symm)

/-- Settles O26: both sides write the triple of the code found. -/
theorem scanExecutesThePrologueItFinds : Obligations.ScanExecutesThePrologueItFinds := by
  intro s p hmode hskip hbits hp
  have hdue := prologueDue_of hmode hskip hbits
  rw [exec_scan, scan_of_due hdue, peek20_eq_of_toNat hp, exec_decodePrologue_of_due _ p rfl hdue]

/-- Settles O20: the class of the low 20 bits gives the triple that SCAN and its arm row write. -/
theorem scanningArmClassifiesThePrologue : Obligations.ScanningArmClassifiesThePrologue := by
  constructor
  · intro s p hd hmode hskip hbits hp
    have hscan := scan_of_due (prologueDue_of hmode hskip hbits)
    rw [peek20_eq_of_toNat hp] at hscan
    refine ⟨applyEntry (lookup s.params.table p) s, ?_, ?_, rfl, five_le_entry_skip _ _, ?_, ?_, ?_, ?_, ?_⟩
    · exact (exec_arm_eq_scan (m := .scanning) hskip hmode).trans (congrArg _ hscan)
    · exact (exec_scan s).trans (congrArg _ hscan)
    · rintro ⟨i, rfl⟩
      rw [lookup_of_row hd (mem_rows_size _ i)]
      simp [applyEntry, entryOf, sizeEntry]
    · rintro ⟨i, rfl⟩
      rw [lookup_of_row hd (mem_rows_ascic _ i)]
      simp [applyEntry, entryOf, ascicEntry]
    · rintro rfl
      rw [lookup_of_row hd (mem_rows_dir _)]
      simp [applyEntry, entryOf, dirEntry]
    · rintro i rfl
      rw [lookup_of_row hd (mem_rows_fix _ i)]
      simp [applyEntry, entryOf, fixEntry]
    · intro hother
      rw [lookup_of_not_mem hother]
      simp [applyEntry, defaultEntry]
  · intro s hmode hskip hbits
    refine arm_and_scan_wait (m := .scanning) hskip hmode ?_
    rw [scan_of_skip_zero hskip, hmode]
    exact armScanning_of_lt hbits

/-! ### SCAN by its guards (R81, R87) -/

/-- Settles O19: the guard, or the arm of the mode. -/
theorem scanTakesTheArmOfTheMode : Obligations.ScanTakesTheArmOfTheMode := fun s =>
  ⟨scan s, exec_scan s, scan_of_skip_ne_zero, fun hskip => exec_arm_eq_scan hskip rfl⟩

/-- The arm row of a mode that is not current, or with nibbles owed, changes nothing (log entry 10). -/
theorem exec_arm_of_not_selected {m : Mode} (h : s.scanner.mode ≠ m ∨ s.scanner.skip ≠ 0) :
    exec m.arm s = .next s := by
  have hnot : ¬(s.scanner.skip = 0 ∧ s.scanner.mode = m) := by tauto
  cases m <;> exact congrArg Host.Outcome.next (whenSelected_of_not hnot)

/-- How many bits the field of a mode takes (R36). -/
def fieldBits (m : Mode) : Nat := if m = .awaitingShortLength ∨ m = .awaitingExtendedLength then 8 else 20

/-- With its field not held SCAN waits, in every mode (R87). -/
theorem scan_of_few_bits (h : s.buffer.fillBits < fieldBits s.scanner.mode) : scan s = s := by
  by_cases hskip : s.scanner.skip = 0
  · rw [scan_of_skip_zero hskip]
    cases hmode : s.scanner.mode <;> simp only [hmode] at h
    case scanning => exact armScanning_of_lt h
    case awaitingSize => exact armAwaitingSize_of_lt h
    case awaitingShortLength => exact armAwaitingShortLength_of_lt h
    case awaitingExtendedLength => exact armAwaitingExtendedLength_of_lt h
    case awaitingDirOffset => exact armAwaitingDirOffset_of_lt h
  · exact scan_of_skip_ne_zero hskip

/-- Settles O25: SCAN waits for the field, and an arm row that is not SCAN's changes nothing. -/
theorem scanWaitsForTheWholeField : Obligations.ScanWaitsForTheWholeField := by
  refine ⟨fun s hfew => ?_, fun s m hnot => exec_arm_of_not_selected hnot⟩
  have hscan : scan s = s := scan_of_few_bits hfew
  refine ⟨(exec_scan s).trans (congrArg _ hscan), ?_⟩
  by_cases hskip : s.scanner.skip = 0
  · exact (exec_arm_eq_scan hskip rfl).trans (congrArg _ hscan)
  · exact exec_arm_of_not_selected (.inr hskip)

/-! ### The prologue operations (R55, R56) -/

/-- With a prologue due, the operation of a row writes the row's triple and nothing else. -/
theorem exec_row_of_due (c : Field20) (n : PrologueName) (h : prologueDue s = true) :
    exec (n.instr c) s = .next { s with scanner :=
      ⟨(entryOf s.params.table n).mode, (entryOf s.params.table n).skip,
        s.scanner.dirFlag || (entryOf s.params.table n).dir⟩ } := by
  rw [exec_prologue_instr, takePrologue_of_due h]
  rfl

/-- Settles O27: the rows with a field to follow, by their triples. -/
theorem lengthPrefixedProloguesSetTheNextPhase : Obligations.LengthPrefixedProloguesSetTheNextPhase := by
  intro s hmode hskip hbits
  have hdue := prologueDue_of hmode hskip hbits
  have hsize := fun i : Fin 9 => exec_row_of_due 0 (.size i) hdue
  have hascic := fun i : Fin 3 => exec_row_of_due 0 (.ascic i) hdue
  have hdir := exec_row_of_due 0 .dir hdue
  simp only [entryOf, sizeEntry, ascicEntry, dirEntry, Bool.or_false, Bool.or_true] at hsize hascic hdir
  refine ⟨?_, ?_, hdir⟩
  · simp only [List.forall_mem_cons]
    exact ⟨hsize 0, hsize 1, hsize 2, hsize 3, hsize 4, hsize 5, hsize 6, hsize 7, hsize 8, by simp⟩
  · simp only [List.forall_mem_cons]
    exact ⟨hascic 0, hascic 1, hascic 2, by simp⟩

/-- Settles O28: the rows that stay in `Scanning`, by the table's skips. -/
theorem fixedAndDefaultProloguesSkipInScanning : Obligations.FixedAndDefaultProloguesSkipInScanning := by
  intro s hmode hskip hbits
  have hdue := prologueDue_of hmode hskip hbits
  have hfix := fun i : Fin 9 => exec_row_of_due 0 (.fix i) hdue
  have hdefault := fun c => exec_row_of_due c .default hdue
  simp only [entryOf, fixEntry, defaultEntry, Bool.or_false] at hfix hdefault
  refine ⟨?_, fun htable => ?_, hdefault⟩
  · simp only [List.forall_mem_cons]
    exact ⟨hfix 0, hfix 1, hfix 2, hfix 3, hfix 4, hfix 5, hfix 6, hfix 7, hfix 8, by simp⟩
  · rw [htable] at hfix
    simp only [List.forall_mem_cons]
    exact ⟨hfix 0, hfix 1, hfix 2, hfix 3, hfix 4, hfix 5, hfix 6, by simp⟩

/-- Settles O29: a code whose prologue is not due is not looked at. -/
theorem prologuesNotDueChangeNothing : Obligations.ProloguesNotDueChangeNothing := by
  intro s pt c hnot
  have hdue : prologueDue s = false := by
    rw [Bool.eq_false_iff, ne_eq, prologueDue_iff]
    rintro ⟨hskip, hmode, hbits⟩
    rcases hnot with h | h | h
    · exact h hmode
    · exact h hskip
    · omega
  rw [decodePrologue, exec_prologue_instr, takePrologue_of_not_due hdue]

/-! ### The mode graph (R88) -/

/-- An edge of the mode graph, or no move. -/
def ModeEdge (m next : Mode) : Prop :=
  next = m ∨ (m = .scanning ∧ next ≠ .awaitingExtendedLength) ∨
    (m = .awaitingDirOffset ∧ next = .awaitingExtendedLength) ∨
    ((m = .awaitingSize ∨ m = .awaitingShortLength ∨ m = .awaitingExtendedLength) ∧ next = .scanning)

theorem scan_modeEdge (s : State) : ModeEdge s.scanner.mode (scan s).scanner.mode := by
  by_cases hskip : s.scanner.skip = 0
  · rcases scan_outcomes hskip with ⟨hscan, _⟩ | ⟨hmode, _, _, hnext, _⟩ | ⟨hmode, _, hnext⟩ | ⟨hmode, _, hnext, _⟩ |
      ⟨hmode, _, hnext, _⟩ | ⟨hmode, _, hnext⟩
    · exact .inl (by rw [hscan])
    · exact .inr (.inl ⟨hmode, hnext⟩)
    · exact .inr (.inr (.inr ⟨.inl hmode, hnext⟩))
    · exact .inr (.inr (.inr ⟨.inr (.inl hmode), hnext⟩))
    · exact .inr (.inr (.inr ⟨.inr (.inr hmode), hnext⟩))
    · exact .inr (.inr (.inl ⟨hmode, hnext⟩))
  · exact .inl (by rw [scan_of_skip_ne_zero hskip])

theorem ScansTo.modeEdge {t : State} (h : ScansTo s t) : ModeEdge s.scanner.mode t.scanner.mode := by
  rcases h with rfl | ⟨_, rfl⟩ | ⟨_, hmode, _, n, rfl⟩
  · exact .inl rfl
  · exact scan_modeEdge s
  · exact .inr (.inl ⟨hmode, (entry_mode _ n).1⟩)

theorem beforeDrain_modeEdge (buf : BitBuffer) (s : State) :
    ModeEdge s.scanner.mode (beforeDrain buf s).scanner.mode := by
  unfold beforeDrain
  split
  · exact scan_modeEdge (s.setBuffer buf)
  · exact .inl rfl

theorem ingest_modeEdge (b : Byte) (s : State) : ModeEdge s.scanner.mode (ingest b s).scanner.mode := by
  obtain ⟨_, _, _, _, ⟨_, buf, _, _, hmode, _⟩ | ⟨_, hraise⟩⟩ := ingest_frame b s
  · rw [hmode]
    exact beforeDrain_modeEdge buf s
  · exact .inl (by rw [hraise]; rfl)

/-- Settles O30: only SCAN, its rows and BYTE move the mode, each along one edge. -/
theorem modeMovesOnlyAlongTheGraph : Obligations.ModeMovesOnlyAlongTheGraph := by
  intro i s t hreset h
  refine exec_elim (P := fun i u => i ≠ .reset → ModeEdge s.scanner.mode u.scanner.mode) h ?same ?report ?reset ?byte
    ?eos ?push ?pop ?upd ?scan hreset
  case reset => exact fun hne => absurd rfl hne
  case byte => exact fun b _ _ => ingest_modeEdge b s
  case eos =>
    obtain ⟨_, hscanner, _⟩ := endStream_frame s
    exact fun _ _ => .inl (by rw [hscanner])
  case scan => exact fun _ _ _ hscans _ => hscans.modeEdge
  all_goals
    intros
    exact .inl rfl

end Sys2Proof.Machine
end

section
/-! PROOFS. The bit-serial form of UPD and its count (42_checksum.md, "Laws of the sub-block"). Both forms shift the
checksum by four and add a word that the four feedback bits choose: in the serial form one shifted polynomial per set
bit, in the recurrence the product of the four bits. None of the four feedback bits reads a bit that an earlier
serial step has changed. -/

namespace Sys2Proof.Machine

/-- One step of the bit-serial form: shift, and add the polynomial where the bit that leaves differs from the bit that
comes in. -/
def serialStep (crc : BitVec 16) (bit : Bool) : BitVec 16 :=
  if crc.getLsbD 0 ^^ bit then (crc >>> 1) ^^^ 0x8408 else crc >>> 1

/-- The polynomial where a feedback bit is set. -/
def feedback (f : Bool) : BitVec 16 := if f then 0x8408 else 0

theorem serialStep_eq (crc : BitVec 16) (bit : Bool) :
    serialStep crc bit = (crc >>> 1) ^^^ feedback (crc.getLsbD 0 ^^ bit) := by
  unfold serialStep feedback
  split <;> simp

/-- The word whose low four bits are given. -/
def lowWord (f₀ f₁ f₂ f₃ : Bool) : BitVec 16 :=
  (BitVec.ofBool f₀).setWidth 16 ||| (BitVec.ofBool f₁).setWidth 16 <<< 1 |||
    (BitVec.ofBool f₂).setWidth 16 <<< 2 ||| (BitVec.ofBool f₃).setWidth 16 <<< 3

/-- The recurrence's product is the sum of the polynomials that four serial steps shift in. -/
theorem lowWord_mul (f₀ f₁ f₂ f₃ : Bool) :
    lowWord f₀ f₁ f₂ f₃ * (0x1081 : BitVec 16) =
      feedback f₀ >>> 3 ^^^ feedback f₁ >>> 2 ^^^ feedback f₂ >>> 1 ^^^ feedback f₃ := by
  revert f₀ f₁ f₂ f₃
  decide

/-- No polynomial shifted by at most two places reaches the bit that leaves next. -/
theorem feedback_getElem (f : Bool) :
    (feedback f)[0] = false ∧ (feedback f)[1] = false ∧ (feedback f)[2] = false := by
  cases f <;> decide

/-- The nibble that the recurrence multiplies holds the four feedback bits. -/
theorem feedback_nibble (crc : BitVec 16) (nib : Nibble) :
    (crc ^^^ nib.setWidth 16) &&& 0xF =
      lowWord (crc.getLsbD 0 ^^ nib.getLsbD 0) (crc.getLsbD 1 ^^ nib.getLsbD 1) (crc.getLsbD 2 ^^ nib.getLsbD 2)
        (crc.getLsbD 3 ^^ nib.getLsbD 3) := by
  refine BitVec.eq_of_getLsbD_eq fun i hi => ?_
  interval_cases i <;> simp [lowWord]

theorem foldl_serialStep (crc : BitVec 16) (n₀ n₁ n₂ n₃ : Bool) :
    [n₀, n₁, n₂, n₃].foldl serialStep crc =
      crc >>> 4 ^^^ (feedback (crc.getLsbD 0 ^^ n₀) >>> 3 ^^^ feedback (crc.getLsbD 1 ^^ n₁) >>> 2 ^^^
        feedback (crc.getLsbD 2 ^^ n₂) >>> 1 ^^^ feedback (crc.getLsbD 3 ^^ n₃)) := by
  simp [serialStep_eq, feedback_getElem, BitVec.ushiftRight_xor_distrib, BitVec.xor_assoc]

/-- The recurrence is four serial steps. -/
theorem crcStep_eq_serial (crc : BitVec 16) (nib : Nibble) :
    crcStep crc nib = [nib.getLsbD 0, nib.getLsbD 1, nib.getLsbD 2, nib.getLsbD 3].foldl serialStep crc := by
  rw [crcStep, feedback_nibble, lowWord_mul, foldl_serialStep]

/-- Settles O32: UPD writes the recurrence, which is four serial steps. -/
theorem updEqualsFourBitSerialSteps : Obligations.UpdEqualsFourBitSerialSteps := by
  intro s t nib hexec
  rw [exec_upd] at hexec
  cases hexec
  exact crcStep_eq_serial s.checksum.crc nib

/-- Settles O35: the count of a run of UPDs, by the fold that the run is. -/
theorem nibbleCountCountsTheUpdates : Obligations.NibbleCountCountsTheUpdates := by
  intro nibs s
  refine ⟨_, execSeq_upds nibs s, rfl, fun hreset => ?_⟩
  rw [hreset]
  exact Nat.zero_add _

end Sys2Proof.Machine
end

section
/-! PROOFS. The step (10_state.md R21, 20_memory.md R40) and the commands one by one (43_stream_decoder.md R106 to R112):
reset values, what a step runs, NOP, EOS, the gate, the reserved selects and the status view. -/

namespace Sys2Proof.Machine

variable {s : State}

/-! ### Reset (R10, R28) -/

/-- Settles O5: the reset column, and RESET's next state. -/
theorem resetPutsEveryRegisterAtItsResetValue : Obligations.ResetPutsEveryRegisterAtItsResetValue :=
  ⟨⟨rfl, rfl, rfl, rfl, rfl⟩, fun s => ⟨_, exec_reset s, rfl, rfl, rfl, rfl, rfl, rfl, rfl, rfl⟩⟩

/-- The parameters at reset are ones R142 allows. -/
theorem referenceParams_legal : referenceParams.Legal := by decide

/-- Settles O6: the reset state is an open run at a boundary, with nothing waiting. -/
theorem resetStateHasTheInvariants : Obligations.ResetStateHasTheInvariants := by
  have hs : Streaming State.reset := reset_streaming (s := State.reset) (port := []) referenceParams_legal.1
  have hwaiting : OnlyCommandsWaiting State.reset := fun w hw => absurd hw List.not_mem_nil
  exact ⟨referenceParams_legal, hs.sound, betweenCommands_of_streaming hs hwaiting⟩

/-! ### The step (R40) -/

theorem step_of_port {w : PortWord} {rest : List PortWord} (h : s.port = w :: rest) :
    step s = exec (decodePort w) (s.setPort rest) := by
  simp only [step, stepFetched, fetch, h]

theorem step_of_idle (h : s.port = []) : step s = .next s := by
  simp only [step, stepFetched, fetch, h]

/-- The word of an operation at the port decodes to it, under any table: commands and micro-operations do not read
the table, and a prologue has no word at the port. -/
theorem decodePort_encode {pt : PrologueTable} {i : Instr} {w : PortWord} (harm : i.armMode = none)
    (he : encode pt i = .port w) : decodePort w = i := by
  cases i
  case byte b =>
    cases he
    exact decodeCommand_byteWord b
  case nop | eos | reset | unop | push | pop | rem | peek | scan | upd | final | size | reserved9 | reservedA
      | reservedB | reservedC | reservedD | reservedE | reservedF =>
    cases he
    rfl
  case scanScanning | scanAwaitingSize | scanAwaitingShortLength | scanAwaitingExtendedLength
      | scanAwaitingDirOffset => cases harm
  all_goals cases he

/-- Settles O7: the head of the port, decoded. -/
theorem stepRunsTheDecodedOperation : Obligations.StepRunsTheDecodedOperation := by
  refine ⟨fun s w rest hport => step_of_port hport, fun p s i w rest _ harm he hport => ?_, fun s => step_of_idle⟩
  rw [step_of_port hport, decodePort_encode harm he]
  rfl

theorem withFetchWord_of_some {nbits w : Nat} {e : Encoding} (h : tableEncoding nbits w = some e) :
    s.withFetchWord nbits w = placeEncoding s e := by
  simp only [State.withFetchWord, placeTableWord, h]

/-- `s` with a prologue in its buffer and due (log entry 6). -/
def withPrologue (c : Field20) (s : State) : State :=
  { s with buffer := ⟨c.toNat, 20⟩, scanner := ⟨.scanning, 0, s.scanner.dirFlag⟩ }

theorem step_placeEncoding_prologue (c : Field20) (s : State) :
    step (placeEncoding s (.prologue c)) = exec .scan (withPrologue c s) :=
  step_of_port (s := placeEncoding s (.prologue c)) rfl

/-- Settles O8: a placed item is at the head of the port, and a placed prologue is the one SCAN finds. -/
theorem stepRunsThePlacedTableWord : Obligations.StepRunsThePlacedTableWord := by
  intro s nbits w
  constructor
  · intro p he
    rw [withFetchWord_of_some he]
    exact step_of_port (s := placeEncoding s (.port p)) rfl
  · intro c he
    rw [withFetchWord_of_some he, step_placeEncoding_prologue]
    exact scanExecutesThePrologueItFinds (withPrologue c s) c rfl rfl le_rfl (Nat.mod_eq_of_lt c.isLt).symm

/-! ### NOP, EOS, the gate and the reserved selects -/

/-- Settles O37: neither writes anything. -/
theorem nopAndUnopChangeNothing : Obligations.NopAndUnopChangeNothing := fun _ => ⟨rfl, rfl⟩

/-- Settles O41: in an open run EOS is its test on `value`. -/
theorem eosTestsTheRawBufferValue : Obligations.EosTestsTheRawBufferValue := by
  intro s hopen
  rw [exec_eos_of_open hopen]
  exact ⟨fun hvalue => congrArg _ (endStream_of_ne_zero hvalue), fun hvalue => congrArg _ (endStream_of_zero hvalue)⟩

/-- The gate of R112, closed. -/
theorem ended_iff : s.ended = true ↔ s.err ≠ none ∨ s.done = true := by
  rw [State.ended, Bool.or_eq_true, Option.isSome_iff_ne_none]

/-- Settles O42: the gate. -/
theorem endedRunIgnoresByteAndEos : Obligations.EndedRunIgnoresByteAndEos :=
  fun _ _ h => ⟨exec_byte_of_ended (ended_iff.mpr h), exec_eos_of_ended (ended_iff.mpr h)⟩

/-- Settles O43: each of the seven selects decodes to its own row, which refuses by its number. -/
theorem reservedSelectsAreRefused : Obligations.ReservedSelectsAreRefused := by
  intro s
  simp only [List.forall_mem_cons]
  exact ⟨⟨rfl, fun _ => rfl⟩, ⟨rfl, fun _ => rfl⟩, ⟨rfl, fun _ => rfl⟩, ⟨rfl, fun _ => rfl⟩, ⟨rfl, fun _ => rfl⟩,
    ⟨rfl, fun _ => rfl⟩, ⟨rfl, fun _ => rfl⟩, by simp⟩

/-! ### The status view (R23) -/

theorem statusView_err (s : State) : (statusView s).err = errCode s.err := rfl
theorem statusView_dbgMode (s : State) : (statusView s).dbgMode = modeCode s.scanner.mode := rfl

/-- Settles O51: the registers, the parity of the count, and the two codes. -/
theorem statusViewReadsTheRegisters : Obligations.StatusViewReadsTheRegisters := by
  intro s
  refine ⟨rfl, rfl, s.checksum.hasHalfByte_toNat, rfl, rfl, rfl, rfl, rfl, ?_⟩
  rw [statusView_err, statusView_dbgMode]
  refine ⟨?_, ?_, ?_, ?_, ?_, ?_, ?_, ?_, ?_⟩ <;> exact fun h => by rw [h]; rfl

end Sys2Proof.Machine
end

section
/-! PROOFS. BYTE as its micro-operations (43_stream_decoder.md R107, R110). No part of a BYTE reads the last result, the
waiting inputs or, where the byte fits, the capacity: `setContext` replaces these and every part commutes with it. So
the drain loop of BYTE, which reports nothing, is the loop of POPs and UPDs, which report each nibble. -/

namespace Sys2Proof.Machine

variable {s : State} {p : Params} {r : MicroResult} {q : List PortWord}

/-! ### What no part of a BYTE reads -/

/-- The same registers under other parameters, with another last result and other inputs waiting. -/
def State.setContext (p : Params) (r : MicroResult) (q : List PortWord) (s : State) : State :=
  { s with params := p, result := r, port := q }

@[simp] theorem State.setContext_buffer (s : State) : (s.setContext p r q).buffer = s.buffer := rfl
@[simp] theorem State.setContext_scanner (s : State) : (s.setContext p r q).scanner = s.scanner := rfl

/-- Replacing the last result alone. -/
theorem setContext_eq_setResult (hp : s.params = p) (hq : s.port = q) : s.setContext p r q = s.setResult r := by
  subst hp hq
  rfl

theorem ite_setContext {c : Prop} [Decidable c] {t u : State} (h : u = t.setContext p r q) :
    (if c then u else s.setContext p r q) = (if c then t else s).setContext p r q := by
  split
  · exact h
  · rfl

theorem scan_setContext (htable : p.table = s.params.table) :
    scan (s.setContext p r q) = (scan s).setContext p r q := by
  by_cases hskip : s.scanner.skip = 0
  · rw [scan_of_skip_zero hskip, scan_of_skip_zero (s := s.setContext p r q) hskip, State.setContext_scanner]
    cases s.scanner.mode
    case scanning =>
      have hentry : applyEntry (lookup p.table (peek20 s.buffer)) (s.setContext p r q) =
          (applyEntry (lookup s.params.table (peek20 s.buffer)) s).setContext p r q := by rw [htable]; rfl
      exact ite_setContext hentry
    all_goals exact ite_setContext rfl
  · rw [scan_of_skip_ne_zero hskip, scan_of_skip_ne_zero (s := s.setContext p r q) hskip]

theorem drainOne_setContext (s : State) :
    drainOne (s.setContext p r q) = (drainOne s).map (State.setContext p r q) := by
  unfold drainOne
  simp only [State.setContext]
  cases s.buffer.pop 4 <;> rfl

theorem drainLoop_setContext (n : Nat) (s : State) :
    drainLoop n (s.setContext p r q) = (drainLoop n s).setContext p r q := by
  induction n generalizing s with
  | zero => rfl
  | succ n ih =>
    cases hdue : drainDue s with
    | true =>
      obtain ⟨t, ht, _⟩ := drainOne_of_due hdue
      have ht' : drainOne (s.setContext p r q) = .ok (t.setContext p r q) := by rw [drainOne_setContext, ht]; rfl
      rw [drainLoop_succ_of_due hdue ht, drainLoop_succ_of_due (s := s.setContext p r q) hdue ht', ih]
    | false =>
      rw [drainLoop_of_not_due hdue, drainLoop_of_not_due (s := s.setContext p r q) hdue]

theorem drain_setContext (s : State) : drain (s.setContext p r q) = (drain s).setContext p r q :=
  drainLoop_setContext _ s

theorem beforeDrain_setContext (buf : BitBuffer) (htable : p.table = s.params.table) :
    beforeDrain buf (s.setContext p r q) = (beforeDrain buf s).setContext p r q := by
  unfold beforeDrain
  rw [State.setContext_scanner]
  split
  · exact scan_setContext (s := s.setBuffer buf) htable
  · rfl

theorem drainLoop_setResult (n : Nat) (r : MicroResult) (s : State) :
    drainLoop n (s.setResult r) = (drainLoop n s).setResult r := by
  obtain ⟨_, _, _, _, _, _, _, _, _, _, hparams, _, hport, _⟩ := drainLoop_account n s
  rw [← setContext_eq_setResult rfl rfl, drainLoop_setContext, setContext_eq_setResult hparams hport]

theorem beforeDrain_setResult (buf : BitBuffer) (r : MicroResult) (s : State) :
    beforeDrain buf (s.setResult r) = (beforeDrain buf s).setResult r := by
  obtain ⟨_, _, _, _, hparams, _, hport⟩ := beforeDrain_frame buf s
  rw [← setContext_eq_setResult rfl rfl, beforeDrain_setContext buf rfl, setContext_eq_setResult hparams hport]

/-- A byte that fits under both capacities does the same under both. -/
theorem ingest_setContext (b : Byte) (htable : p.table = s.params.table)
    (hfit : s.buffer.fillBits + 8 ≤ s.params.cap) (hfit' : s.buffer.fillBits + 8 ≤ p.cap) :
    ingest b (s.setContext p r q) = (ingest b s).setContext p r q := by
  have hpush := push_eq (v := byteOperand b) hfit
  have hpush' : (s.setContext p r q).buffer.push (s.setContext p r q).params.cap 8 (byteOperand b) = .ok _ :=
    push_eq (v := byteOperand b) hfit'
  rw [ingest_of_push hpush, ingest_of_push hpush']
  exact (congrArg drain (beforeDrain_setContext _ htable)).trans (drain_setContext _)

/-! ### The drain loop as micro-operations (R110) -/

/-- One iteration of the loop is a POP of 4, an UPD and a decrement; it differs in the reported nibble alone. -/
theorem drainOne_eq_micros (hdue : drainDue s = true) :
    ∃ popped updated t, exec (.pop 4) s = .next popped ∧ popped.result = .rdata (s.buffer.peek 4) ∧
      exec (.upd (BitVec.ofNat 4 (s.buffer.peek 4))) popped = .next updated ∧ drainOne s = .ok t ∧
      updated.setScanner { updated.scanner with skip := updated.scanner.skip - 1 } =
        t.setResult (.rdata (s.buffer.peek 4)) := by
  obtain ⟨c, hpop, _, _, hone⟩ := drainOne_succeeds (drainDue_iff.mp hdue).2
  exact ⟨_, _, _, exec_pop_of_ok hpop, rfl, exec_upd _ _, hone, rfl⟩

/-- The drain loop, with fuel for every nibble held, is the loop of R110 up to the reported result. -/
theorem exists_drains (n : Nat) (s : State) (hfuel : s.buffer.fillBits < 4 * (n + 1)) :
    ∃ d, Drains s d ∧ d.setResult s.result = drainLoop n s := by
  induction n generalizing s with
  | zero => exact ⟨s, .stop s (.inr (by omega)), rfl⟩
  | succ n ih =>
    cases hdue : drainDue s with
    | true =>
      obtain ⟨hskip, hheld⟩ := drainDue_iff.mp hdue
      obtain ⟨popped, updated, t, hpop, hdata, hupd, hone, hnext⟩ := drainOne_eq_micros hdue
      obtain ⟨t', hone', _, hfill, _, _, _, _, _, _, _, hresult, _⟩ := drainOne_of_due hdue
      rw [hone] at hone'
      cases hone'
      obtain ⟨d, hd, hloop⟩ := ih (t.setResult (.rdata (s.buffer.peek 4)))
        (by simp only [State.setResult_buffer]; omega)
      refine ⟨d, .again s popped updated d _ hskip hheld hpop hdata hupd (hnext ▸ hd), ?_⟩
      obtain ⟨_, _, _, _, _, _, _, _, _, _, _, hkept, _⟩ := drainLoop_account n t
      rw [drainLoop_setResult, State.setResult_result] at hloop
      rw [drainLoop_succ_of_due hdue hone]
      calc d.setResult s.result
          = (d.setResult (.rdata (s.buffer.peek 4))).setResult s.result := rfl
        _ = ((drainLoop n t).setResult (.rdata (s.buffer.peek 4))).setResult s.result :=
          congrArg (State.setResult · s.result) hloop
        _ = drainLoop n t := by rw [← hresult, ← hkept]; rfl
    | false =>
      rw [drainLoop_of_not_due hdue]
      refine ⟨s, .stop s ?_, rfl⟩
      by_contra hnot
      push Not at hnot
      rw [drainDue_iff.mpr hnot] at hdue
      cases hdue

/-- Settles O38: the PUSH, the SCAN under its guard and the loop, each with the result it reports. -/
theorem byteIsPushThenScanThenDrain : Obligations.ByteIsPushThenScanThenDrain := by
  intro s b hopen _ hfit
  obtain ⟨buf, hpush, _⟩ := push_succeeds (v := byteOperand b) hfit
  obtain ⟨d, hd, hloop⟩ := exists_drains ((beforeDrain buf s).buffer.rem / 4) (beforeDrain buf (s.setResult .ok))
    (by simp only [beforeDrain_setResult, State.setResult_buffer, BitBuffer.rem]; omega)
  refine ⟨(s.setBuffer buf).setResult .ok, beforeDrain buf (s.setResult .ok), d, exec_push_of_ok hpush,
    fun hskip => ?_, fun hskip => ?_, hd, ?_⟩
  · rw [exec_scan, beforeDrain, if_pos (show (s.setResult .ok).scanner.skip = 0 from hskip)]
    rfl
  · rw [beforeDrain, if_neg (show (s.setResult .ok).scanner.skip ≠ 0 from hskip)]
    rfl
  · obtain ⟨_, _, hkept, _, ⟨_, buf', hpush', hingest, _⟩ | ⟨hfull, _⟩⟩ := ingest_frame b s
    · rw [hpush] at hpush'
      cases hpush'
      rw [beforeDrain_setResult, drainLoop_setResult] at hloop
      rw [exec_byte_of_open hopen]
      refine congrArg _ ?_
      calc ingest b s
          = (ingest b s).setResult s.result := by rw [← hkept]; rfl
        _ = ((drain (beforeDrain buf s)).setResult .ok).setResult s.result := by rw [hingest]; rfl
        _ = (d.setResult .ok).setResult s.result := (congrArg (State.setResult · s.result) hloop).symm
        _ = { d with result := s.result } := rfl
    · omega

end Sys2Proof.Machine
end

section
/-! PROOFS. What a BYTE does as a whole (43_stream_decoder.md R107, 70_reset_and_hazards.md section 3): its account, its
overflow, the one SCAN it makes, and the field of value 0 that is read twice. -/

namespace Sys2Proof.Machine

variable {s : State}

/-- Settles O39: the account of an accepted BYTE, four bits to a nibble. -/
theorem acceptedByteKeepsTheAccount : Obligations.AcceptedByteKeepsTheAccount := by
  intro s b hopen _ hfit
  obtain ⟨herr, hdone⟩ := hopen
  obtain ⟨_, k, _, _, _, _, hfill, _, _, hcount, _, _, herr', hdone', hparams, hresult, hport, hend⟩ :=
    ingest_account b hfit
  exact ⟨_, exec_byte_of_open ⟨herr, hdone⟩, by omega, hend, herr'.trans herr, hdone'.trans hdone, hparams, hport,
    hresult⟩

/-- Settles O40: a BYTE that does not fit stops at its PUSH. -/
theorem byteThatDoesNotFitWritesOnlyErr : Obligations.ByteThatDoesNotFitWritesOnlyErr :=
  fun _ _ hopen hfull => (exec_byte_of_open hopen).trans (congrArg _ (ingest_of_overflow hfull))

/-- With nibbles owed, an accepted BYTE makes no SCAN. -/
theorem ingest_of_skip_ne_zero (b : Byte) (hskip : s.scanner.skip ≠ 0) :
    (ingest b s).scanner.mode = s.scanner.mode ∧ (ingest b s).scanner.dirFlag = s.scanner.dirFlag := by
  obtain ⟨_, _, _, _, ⟨_, buf, _, _, hmode, hdir⟩ | ⟨_, hraise⟩⟩ := ingest_frame b s
  · rw [hmode, hdir, beforeDrain, if_neg hskip]
    exact ⟨rfl, rfl⟩
  · rw [hraise]
    exact ⟨rfl, rfl⟩

/-- Settles O48: the gate, or a BYTE without a SCAN. -/
theorem byteWithSkipPendingDoesNotScan : Obligations.ByteWithSkipPendingDoesNotScan := by
  intro s b hskip
  cases hended : s.ended with
  | true => exact ⟨s, exec_byte_of_ended hended, rfl, rfl⟩
  | false => exact ⟨_, exec_byte_of_open (ended_eq_false_iff.mp hended), ingest_of_skip_ne_zero b hskip⟩

/-! ### A field of value 0 is read twice -/

/-- Bits placed at or above position `n` do not show below it. -/
theorem or_shiftLeft_mod {n f : Nat} (v x : Nat) (h : n ≤ f) : (v ||| x <<< f) % 2 ^ n = v % 2 ^ n := by
  have hhigh : (x <<< f) % 2 ^ n = 0 := by
    rw [Nat.shiftLeft_eq]
    exact Nat.mod_eq_zero_of_dvd (dvd_mul_of_dvd_right (pow_dvd_pow 2 h) x)
  rw [Nat.or_mod_two_pow, hhigh, Nat.or_zero]

theorem drain_of_skip_zero (hskip : s.scanner.skip = 0) : drain s = s := by
  refine drainLoop_of_not_due ?_
  rw [Bool.eq_false_iff, ne_eq, drainDue_iff]
  exact fun hdue => hdue.1 hskip

/-- The first read: a BYTE that completes a field of value 0 moves the mode on and owes nothing. -/
theorem ingest_zero_field {next : Mode} (b : Byte) (hskip : s.scanner.skip = 0) (hbits : 12 ≤ s.buffer.fillBits)
    (hfit : s.buffer.fillBits + 8 ≤ s.params.cap)
    (hzero : (s.buffer.value ||| (b.toNat <<< s.buffer.fillBits)) % 2 ^ 20 = 0)
    (hmode : s.scanner.mode = .awaitingSize ∧ next = .scanning ∨
      s.scanner.mode = .awaitingDirOffset ∧ next = .awaitingExtendedLength) :
    ∃ buf : BitBuffer, buf.fillBits = s.buffer.fillBits + 8 ∧ buf.value % 2 ^ 20 = 0 ∧
      ingest b s = setPhase next 0 (s.setBuffer buf) := by
  obtain ⟨buf, _, _, hvalue, hfill, hingest, _⟩ := ingest_account b hfit
  rw [← hvalue] at hzero
  have hheld : 20 ≤ (s.setBuffer buf).buffer.fillBits := by simp only [State.setBuffer_buffer]; omega
  have hpeek : peek20 (s.setBuffer buf).buffer = 0 := peek20_eq_of_toNat hzero.symm
  have hscan : scan (s.setBuffer buf) = setPhase next 0 (s.setBuffer buf) := by
    rcases hmode with ⟨hmode, rfl⟩ | ⟨hmode, rfl⟩
    · rw [scan_awaitingSize (s := s.setBuffer buf) hskip hmode, armAwaitingSize_of_le hheld, hpeek]
    · rw [scan_awaitingDirOffset (s := s.setBuffer buf) hskip hmode, armAwaitingDirOffset_of_le hheld, hpeek]
  refine ⟨buf, hfill, hzero, ?_⟩
  rw [hingest, beforeDrain, if_pos hskip, hscan]
  exact drain_of_skip_zero rfl

/-- A BYTE that reads a field already held takes over what its SCAN finds in the old low bits, and drains all of a
debt of at most five nibbles. -/
theorem ingest_reads_held_field {e : Scanner} (b : Byte) (hskip : s.scanner.skip = 0) (hbits : 20 ≤ s.buffer.fillBits)
    (hfit : s.buffer.fillBits + 8 ≤ s.params.cap)
    (hscan : ∀ buf : BitBuffer, 20 ≤ buf.fillBits → buf.value % 2 ^ 20 = s.buffer.value % 2 ^ 20 →
      (scan (s.setBuffer buf)).scanner = e) :
    (ingest b s).scanner.mode = e.mode ∧
      (ingest b s).scanner.skip.toNat + (ingest b s).checksum.nibbleCount =
        e.skip.toNat + s.checksum.nibbleCount ∧
      (e.skip.toNat ≤ 5 → (ingest b s).scanner.skip = 0 ∧
        (ingest b s).checksum.nibbleCount = s.checksum.nibbleCount + e.skip.toNat) := by
  obtain ⟨buf, k, _, hvalue, hbuf, _, hfill, _, hskip', hcount, hmode, _, _, _, _, _, _, hend⟩ := ingest_account b hfit
  have hfound := hscan buf (by omega) (by rw [hvalue, or_shiftLeft_mod _ _ hbits])
  rw [beforeDrain, if_pos hskip, hfound] at hskip' hmode
  refine ⟨hmode, by omega, fun hsmall => ?_⟩
  have hpaid : (ingest b s).scanner.skip = 0 := by
    rcases hend with hpaid | hfew
    · exact hpaid
    · omega
  have hnone : (ingest b s).scanner.skip.toNat = 0 := by rw [hpaid]; rfl
  exact ⟨hpaid, by omega⟩

/-- The second read in mode `Scanning`: the 20 zero bits are the prologue 0x00000. -/
theorem scan_zero_prologue (hskip : s.scanner.skip = 0) (hmode : s.scanner.mode = .scanning) (buf : BitBuffer)
    (hbits : 20 ≤ buf.fillBits) (hzero : buf.value % 2 ^ 20 = 0) :
    (scan (s.setBuffer buf)).scanner = (applyEntry (lookup s.params.table 0) s).scanner := by
  rw [scan_of_due (s := s.setBuffer buf) (prologueDue_of hmode hskip hbits), State.setBuffer_buffer,
    peek20_eq_of_toNat (p := 0) hzero.symm]
  rfl

/-- The second read in mode `AwaitingExtendedLength`: the low 8 of the zero bits are a `len` of 0. -/
theorem scan_zero_length (hskip : s.scanner.skip = 0) (hmode : s.scanner.mode = .awaitingExtendedLength)
    (buf : BitBuffer) (hbits : 20 ≤ buf.fillBits) (hzero : buf.value % 2 ^ 20 = 0) :
    (scan (s.setBuffer buf)).scanner = ⟨.scanning, 4, s.scanner.dirFlag⟩ := by
  have hlen : extendedLengthSkip (peek8 buf) = 4 := by
    refine BitVec.eq_of_toNat_eq ((extendedLengthSkip_peek8_toNat buf).trans ?_)
    have hfour : (4 : Field20).toNat = 4 := rfl
    omega
  rw [scan_awaitingExtendedLength (s := s.setBuffer buf) hskip hmode,
    armAwaitingExtendedLength_of_le (s := s.setBuffer buf) (by simp only [State.setBuffer_buffer]; omega),
    State.setBuffer_buffer, hlen]
  rfl

/-- The second read of a size field of value 0. -/
theorem ingest_zero_prologue (b : Byte) (hskip : s.scanner.skip = 0) (hmode : s.scanner.mode = .scanning)
    (hbits : 20 ≤ s.buffer.fillBits) (hfit : s.buffer.fillBits + 8 ≤ s.params.cap)
    (hzero : s.buffer.value % 2 ^ 20 = 0) :
    (ingest b s).scanner.mode = (lookup s.params.table 0).mode ∧
      (ingest b s).scanner.skip.toNat + (ingest b s).checksum.nibbleCount =
        (lookup s.params.table 0).skip.toNat + s.checksum.nibbleCount ∧
      (0 ∉ s.params.table.codes → (ingest b s).scanner.mode = .scanning ∧ (ingest b s).scanner.skip = 0 ∧
        (ingest b s).checksum.nibbleCount = s.checksum.nibbleCount + 5) := by
  obtain ⟨hmode', hsum, hpaid⟩ := ingest_reads_held_field b hskip hbits hfit
    fun buf hheld hlow => scan_zero_prologue hskip hmode buf hheld (hlow.trans hzero)
  refine ⟨hmode', hsum, fun hother => ?_⟩
  rw [lookup_of_not_mem hother] at hmode' hpaid
  exact ⟨hmode', hpaid (show (5 : Field20).toNat ≤ 5 by decide)⟩

/-- The second read of an offset field of value 0. -/
theorem ingest_zero_length (b : Byte) (hskip : s.scanner.skip = 0) (hmode : s.scanner.mode = .awaitingExtendedLength)
    (hbits : 20 ≤ s.buffer.fillBits) (hfit : s.buffer.fillBits + 8 ≤ s.params.cap)
    (hzero : s.buffer.value % 2 ^ 20 = 0) :
    (ingest b s).scanner.mode = .scanning ∧ (ingest b s).scanner.skip = 0 ∧
      (ingest b s).checksum.nibbleCount = s.checksum.nibbleCount + 4 := by
  obtain ⟨hmode', _, hpaid⟩ := ingest_reads_held_field b hskip hbits hfit
    fun buf hheld hlow => scan_zero_length hskip hmode buf hheld (hlow.trans hzero)
  exact ⟨hmode', hpaid (show (4 : Field20).toNat ≤ 5 by decide)⟩

/-- Settles O49: the first read leaves the 20 zero bits with nothing owed, and the second takes them as a prologue or
as a length. -/
theorem zeroFieldIsReadTwice : Obligations.ZeroFieldIsReadTwice := by
  intro s b hopen _ hskip hbits hfit hzero hmode
  rcases hmode with hmode | hmode
  · obtain ⟨buf, hfill, hlow, hingest⟩ := ingest_zero_field b hskip hbits hfit hzero (.inl ⟨hmode, rfl⟩)
    refine ⟨setPhase .scanning 0 (s.setBuffer buf), hingest ▸ exec_byte_of_open hopen, rfl, fun _ => rfl,
      fun h => absurd (hmode.symm.trans h) (by decide), hfill, peek20_eq_of_toNat hlow.symm, rfl, fun b₂ hfit₂ => ?_⟩
    refine ⟨_, exec_byte_of_open hopen, fun _ => ?_, fun h => absurd (hmode.symm.trans h) (by decide)⟩
    exact ingest_zero_prologue (s := setPhase .scanning 0 (s.setBuffer buf)) b₂ rfl rfl
      (show 20 ≤ buf.fillBits by omega) (show buf.fillBits + 8 ≤ s.params.cap by omega) hlow
  · obtain ⟨buf, hfill, hlow, hingest⟩ := ingest_zero_field b hskip hbits hfit hzero (.inr ⟨hmode, rfl⟩)
    refine ⟨setPhase .awaitingExtendedLength 0 (s.setBuffer buf), hingest ▸ exec_byte_of_open hopen, rfl,
      fun h => absurd (hmode.symm.trans h) (by decide), fun _ => rfl, hfill, peek20_eq_of_toNat hlow.symm, rfl,
      fun b₂ hfit₂ => ?_⟩
    refine ⟨_, exec_byte_of_open hopen, fun h => absurd (hmode.symm.trans h) (by decide), fun _ => ?_⟩
    exact ingest_zero_length (s := setPhase .awaitingExtendedLength 0 (s.setBuffer buf)) b₂ rfl rfl
      (show 20 ≤ buf.fillBits by omega) (show buf.fillBits + 8 ≤ s.params.cap by omega) hlow

end Sys2Proof.Machine
end

section
/-! PROOFS. The rules over all operations (10_state.md sections 1 to 3, 60_exceptions.md section 1): what each register
is written by, which status is sticky and who raises FormatError. Each is one case analysis by `exec_elim`. -/

namespace Sys2Proof.Machine

variable {s : State}

/-- Settles O47: no kind of operation writes either field. -/
theorem noOperationChangesParametersOrInputs : Obligations.NoOperationChangesParametersOrInputs := by
  intro i s t h
  refine exec_elim (P := fun _ u => u.params = s.params ∧ u.port = s.port) h ?same ?report ?reset ?byte ?eos ?push
    ?pop ?upd ?scan
  case byte =>
    intro b _
    obtain ⟨_, hparams, _, hport, _⟩ := ingest_frame b s
    exact ⟨hparams, hport⟩
  case eos =>
    obtain ⟨_, _, _, hparams, _, hport⟩ := endStream_frame s
    exact fun _ => ⟨hparams, hport⟩
  case scan =>
    intro _ u _ hscans
    obtain ⟨_, _, _, _, hparams, _, hport⟩ := hscans.frame
    exact ⟨hparams, hport⟩
  all_goals
    intros
    exact ⟨rfl, rfl⟩

/-- A BYTE records no FormatError. -/
theorem ingest_err (b : Byte) (s : State) :
    (ingest b s).err = s.err ∨ (ingest b s).err = some .bufferOverflow := by
  obtain ⟨_, _, _, _, ⟨herr, _⟩ | ⟨_, hraise⟩⟩ := ingest_frame b s
  · exact .inl herr
  · exact .inr (by rw [hraise]; rfl)

/-- Settles O44: EOS with a 1 bit held is the one kind of operation that records the error. -/
theorem onlyEosRaisesFormatError : Obligations.OnlyEosRaisesFormatError := by
  intro i s t h hnot hraised
  refine exec_elim (P := fun i u => u.err = some .formatError → i = .eos ∧ s.buffer.value ≠ 0 ∧ s.err = none) h
    ?same ?report ?reset ?byte ?eos ?push ?pop ?upd ?scan hraised
  case reset => exact fun hnone => by cases hnone
  case byte =>
    intro b _ hformat
    rcases ingest_err b s with herr | herr
    · exact absurd (herr.symm.trans hformat) hnot
    · rw [herr] at hformat
      cases hformat
  case eos =>
    intro hopen hformat
    refine ⟨rfl, fun hvalue => hnot ?_, hopen.1⟩
    rwa [endStream_of_zero hvalue] at hformat
  case scan =>
    intro _ u _ hscans hformat
    obtain ⟨_, _, herr, _⟩ := hscans.frame
    exact absurd (herr.symm.trans hformat) hnot
  all_goals
    intros
    contradiction

/-! ### The sticky directory flag (R19) -/

theorem ite_dirFlag {c : Prop} [Decidable c] {t : State} (hs : s.scanner.dirFlag = true)
    (ht : t.scanner.dirFlag = true) : (if c then t else s).scanner.dirFlag = true := by
  split
  · exact ht
  · exact hs

theorem applyEntry_keeps_dirFlag (e : Entry) (hs : s.scanner.dirFlag = true) :
    (applyEntry e s).scanner.dirFlag = true := by simp [applyEntry, hs]

theorem scan_keeps_dirFlag (hs : s.scanner.dirFlag = true) : (scan s).scanner.dirFlag = true := by
  by_cases hskip : s.scanner.skip = 0
  · rw [scan_of_skip_zero hskip]
    cases s.scanner.mode
    case scanning => exact ite_dirFlag hs (applyEntry_keeps_dirFlag _ hs)
    all_goals exact ite_dirFlag hs hs
  · rwa [scan_of_skip_ne_zero hskip]

theorem ScansTo.keeps_dirFlag {t : State} (h : ScansTo s t) (hs : s.scanner.dirFlag = true) :
    t.scanner.dirFlag = true := by
  rcases h with rfl | ⟨_, rfl⟩ | ⟨_, _, _, n, rfl⟩
  · exact hs
  · exact scan_keeps_dirFlag hs
  · exact applyEntry_keeps_dirFlag _ hs

theorem ingest_keeps_dirFlag (b : Byte) (hs : s.scanner.dirFlag = true) :
    (ingest b s).scanner.dirFlag = true := by
  obtain ⟨_, _, _, _, ⟨_, buf, _, _, _, hdir⟩ | ⟨_, hraise⟩⟩ := ingest_frame b s
  · rw [hdir, beforeDrain]
    exact ite_dirFlag (s := s.setBuffer buf) hs (scan_keeps_dirFlag (s := s.setBuffer buf) hs)
  · rwa [hraise]

/-- The status that only RESET clears (R17, R18, R19). -/
def StatusKept (s t : State) : Prop :=
  (∀ e, s.err = some e → t.err = some e) ∧ (s.done = true → t.done = true) ∧
    (s.scanner.dirFlag = true → t.scanner.dirFlag = true)

/-- Settles O45: BYTE and EOS are gated by the status they could overwrite, and SCAN only sets the flag. -/
theorem onlyResetClearsTheStatus : Obligations.OnlyResetClearsTheStatus := by
  intro i s t hreset h
  refine exec_elim (P := fun i u => i ≠ .reset → StatusKept s u) h ?same ?report ?reset ?byte ?eos ?push ?pop ?upd
    ?scan hreset
  case reset => exact fun hne => absurd rfl hne
  case byte =>
    rintro b ⟨herr, hdone⟩ _
    exact ⟨by simp [herr], by simp [hdone], ingest_keeps_dirFlag b⟩
  case eos =>
    rintro ⟨herr, hdone⟩ _
    obtain ⟨_, hscanner, _⟩ := endStream_frame s
    exact ⟨by simp [herr], by simp [hdone], by rw [hscanner]; exact id⟩
  case scan =>
    intro _ u _ hscans _
    obtain ⟨_, _, herr, hdone, _⟩ := hscans.frame
    exact ⟨by simp [herr], by simp [hdone], hscans.keeps_dirFlag⟩
  all_goals
    intros
    exact ⟨fun _ => id, id, id⟩

/-! ### Who writes a register (R10) -/

/-- The column "Written by" of R10: a register that `i` is not named for is as it was. -/
def WritesItsRegistersOnly (s : State) (i : Instr) (t : State) : Prop :=
  ((∀ b, i ≠ .byte b) → i ≠ .reset → (∀ n v, i ≠ .push n v) → (∀ n, i ≠ .pop n) → t.buffer = s.buffer) ∧
  ((∀ b, i ≠ .byte b) → i ≠ .reset → (∀ n, i ≠ .upd n) → t.checksum = s.checksum) ∧
  ((∀ b, i ≠ .byte b) → i ≠ .reset → i ≠ .scan → i.armMode = none → i.isPrologue = false →
    t.scanner = s.scanner) ∧
  ((∀ b, i ≠ .byte b) → i ≠ .reset → i ≠ .eos → t.err = s.err) ∧
  (i ≠ .reset → i ≠ .eos → t.done = s.done)

/-- Settles O46: for each kind of operation, the registers it writes are ones it is named for. -/
theorem registersAreWrittenOnlyByTheirOperations : Obligations.RegistersAreWrittenOnlyByTheirOperations := by
  intro i s t h
  refine exec_elim (P := WritesItsRegistersOnly s) h ?same ?report ?reset ?byte ?eos ?push ?pop ?upd ?scan
  case same => exact fun _ => ⟨by simp, by simp, by simp, by simp, by simp⟩
  case report => exact fun _ _ => ⟨by simp, by simp, by simp, by simp, by simp⟩
  case reset => exact ⟨by simp, by simp, by simp, by simp, by simp⟩
  case byte =>
    intro b _
    obtain ⟨hdone, _⟩ := ingest_frame b s
    exact ⟨by simp, by simp, by simp, by simp, fun _ _ => hdone⟩
  case eos =>
    obtain ⟨hbuffer, hscanner, hchecksum, _⟩ := endStream_frame s
    exact fun _ => ⟨by simp [hbuffer], by simp [hchecksum], by simp [hscanner], by simp, by simp⟩
  case push => exact fun _ _ _ _ => ⟨by simp, by simp, by simp, by simp, by simp⟩
  case pop => exact fun _ _ _ _ => ⟨by simp, by simp, by simp, by simp, by simp⟩
  case upd => exact fun _ => ⟨by simp, by simp, by simp, by simp, by simp⟩
  case scan =>
    intro i u hi hscans
    obtain ⟨hbuffer, hchecksum, herr, hdone, _⟩ := hscans.frame
    refine ⟨by simp [hbuffer], by simp [hchecksum], fun _ _ hscan harm hprologue => ?_, by simp [herr], by simp [hdone]⟩
    rcases hi with h | h | h
    · exact absurd h hscan
    · exact absurd harm h
    · rw [hprologue] at h
      cases h

end Sys2Proof.Machine
end

section
/-! PROOFS. Whole runs (43_stream_decoder.md R116, 10_state.md R27, 20_memory.md R33). After RESET every byte is accepted,
so a run is a fold of `ingest` over its bytes and then the test of EOS; each statement is one fact about a BYTE carried
along that fold. -/

namespace Sys2Proof.Machine

variable {s : State}

/-! ### Bounds between two commands -/

/-- Settles O55: a boundary holds at most 24 bits, so a BYTE has at most eight nibbles to drain. -/
theorem byteDrainsAtMostEightNibbles : Obligations.ByteDrainsAtMostEightNibbles := by
  intro s b hs
  cases hended : s.ended with
  | true => exact ⟨s, exec_byte_of_ended hended, le_rfl, Nat.le_add_right _ _⟩
  | false =>
    have hopen := ended_eq_false_iff.mp hended
    have hroom := (streaming_of_betweenCommands hs hopen).room
    obtain ⟨_, _, ⟨_, _, hbound⟩, _⟩ := hs
    have hmost := (boundaryFill_bounds s.scanner.mode).2
    obtain ⟨_, k, _, _, _, _, hfill, _, _, hcount, _⟩ := ingest_account b hroom
    exact ⟨_, exec_byte_of_open hopen, by omega, by omega⟩

/-- Settles O56: with nibbles owed nothing is held, and EOS finds no 1 bit. -/
theorem truncatedObjectIsAccepted : Obligations.TruncatedObjectIsAccepted := by
  intro s hs hopen hskip
  obtain ⟨_, ⟨_, hbelow⟩, ⟨_, hempty, _⟩, _⟩ := hs
  rw [hempty hskip, Nat.pow_zero, Nat.lt_one_iff] at hbelow
  exact (exec_eos_of_open hopen).trans (congrArg _ (endStream_of_zero hbelow))

/-! ### A run as a fold -/

/-- The bytes of a stream, each accepted. -/
def ingestAll (bs : List Byte) (s : State) : State := bs.foldl (fun u b => ingest b u) s

@[simp] theorem ingestAll_nil (s : State) : ingestAll [] s = s := rfl
@[simp] theorem ingestAll_cons (b : Byte) (bs : List Byte) (s : State) :
    ingestAll (b :: bs) s = ingestAll bs (ingest b s) := rfl

/-- The state after RESET: a run from here depends on the parameters alone. -/
def afterReset (s : State) : State := (State.resetWith s.params).setPort s.port

theorem afterReset_streaming (hcap : 32 ≤ s.params.cap) : Streaming (afterReset s) := reset_streaming hcap

theorem ingestAll_streaming (bs : List Byte) (h : Streaming s) : Streaming (ingestAll bs s) := by
  induction bs generalizing s with
  | nil => exact h
  | cons b bs ih => exact ih (ingest_streaming b h)

theorem execSeq_bytes (bs : List Byte) (h : Streaming s) :
    execSeq (bytesCommands bs) s = .next (ingestAll bs s) := by
  induction bs generalizing s with
  | nil => rfl
  | cons b bs ih =>
    exact (execSeq_cons (exec_byte_of_open h.runOpen)).trans (ih (ingest_streaming b h))

theorem execSeq_reset_bytes (bs : List Byte) (hcap : 32 ≤ s.params.cap) :
    execSeq (.reset :: bytesCommands bs) s = .next (ingestAll bs (afterReset s)) :=
  (execSeq_cons (exec_reset s)).trans (execSeq_bytes bs (afterReset_streaming hcap))

/-- A whole run: RESET, every byte accepted, and the test of EOS (R116). -/
theorem run_eq (bs : List Byte) (hcap : 32 ≤ s.params.cap) :
    run bs s = .next (endStream (ingestAll bs (afterReset s))) := by
  have hopen := (ingestAll_streaming bs (afterReset_streaming hcap)).runOpen
  have hend := execSeq_append _ [.eos] _ _ (execSeq_reset_bytes bs hcap)
  exact hend.trans (execSeq_cons (exec_eos_of_open hopen))

/-- Settles O57: every byte leaves the run open, and EOS ends it in one of two ways. -/
theorem everyRunEndsInSuccessOrFormatError : Obligations.EveryRunEndsInSuccessOrFormatError := by
  intro s bs hcap
  refine ⟨_, run_eq bs hcap, ?_⟩
  obtain ⟨herr, hdone⟩ := (ingestAll_streaming bs (afterReset_streaming hcap)).runOpen
  by_cases hvalue : (ingestAll bs (afterReset s)).buffer.value = 0
  · rw [endStream_of_zero hvalue]
    exact .inl ⟨herr, rfl⟩
  · rw [endStream_of_ne_zero hvalue]
    exact .inr ⟨rfl, hdone⟩

/-! ### Independence of history and capacity (R116, R155) -/

section Context

variable {p : Params} {r : MicroResult} {q : List PortWord}

theorem ingestAll_setContext (bs : List Byte) (h : Streaming s) (htable : p.table = s.params.table)
    (hcap : 32 ≤ p.cap) : ingestAll bs (s.setContext p r q) = (ingestAll bs s).setContext p r q := by
  induction bs generalizing s with
  | nil => rfl
  | cons b bs ih =>
    have hroom := h.room
    obtain ⟨_, hparams, _⟩ := ingest_frame b s
    have hnext := ingest_streaming b h
    obtain ⟨_, _, ⟨_, _, hbound⟩, _⟩ := h
    have hmost := (boundaryFill_bounds s.scanner.mode).2
    rw [ingestAll_cons, ingest_setContext b htable hroom (by omega)]
    exact ih hnext (by rw [hparams, htable])

theorem endStream_setContext (s : State) : endStream (s.setContext p r q) = (endStream s).setContext p r q := by
  unfold endStream
  rw [State.setContext_buffer]
  split <;> rfl

theorem runResult_setContext (s : State) : runResult (s.setContext p r q) = runResult s := rfl

end Context

/-- The states after RESET from any two states differ in what a run does not read. -/
theorem afterReset_eq_setContext (s₁ s₂ : State) :
    afterReset s₂ = (afterReset s₁).setContext s₂.params .none s₂.port := rfl

/-- Settles O58: the second run is the first one under the second state's parameters and inputs. -/
theorem runIsIndependentOfHistoryAndCapacity : Obligations.RunIsIndependentOfHistoryAndCapacity := by
  intro s₁ s₂ bs hcap₁ hcap₂ htable
  have hends : endStream (ingestAll bs (afterReset s₂)) =
      (endStream (ingestAll bs (afterReset s₁))).setContext s₂.params .none s₂.port := by
    rw [afterReset_eq_setContext s₁ s₂, ingestAll_setContext bs (afterReset_streaming hcap₁) htable.symm hcap₂,
      endStream_setContext]
  refine ⟨_, _, run_eq bs hcap₁, run_eq bs hcap₂, ?_⟩
  rw [hends]
  exact ⟨rfl, rfl, rfl, rfl, rfl, (runResult_setContext _).symm⟩

/-! ### The account of a run (R27) -/

theorem ingestAll_account (bs : List Byte) (h : Streaming s) :
    4 * (ingestAll bs s).checksum.nibbleCount + (ingestAll bs s).buffer.fillBits =
      4 * s.checksum.nibbleCount + s.buffer.fillBits + 8 * bs.length := by
  induction bs generalizing s with
  | nil => rfl
  | cons b bs ih =>
    obtain ⟨_, _, _, _, _, _, hfill, _, _, hcount, _⟩ := ingest_account b h.room
    rw [ingestAll_cons, ih (ingest_streaming b h), List.length_cons]
    omega

/-- Settles O59: the account of each byte, from the empty account of RESET. -/
theorem runAccountsForEveryBit : Obligations.RunAccountsForEveryBit := by
  intro s bs hcap
  have haccount := ingestAll_account bs (afterReset_streaming hcap)
  have hempty : 4 * (afterReset s).checksum.nibbleCount + (afterReset s).buffer.fillBits = 0 := rfl
  exact ⟨_, execSeq_reset_bytes bs hcap, by omega⟩

/-! ### The checksum covers the stream (R33) -/

/-- The low `n` nibbles of a number, lowest first. -/
def nibblesOfNat : Nat → Nat → List Nibble
  | 0, _ => []
  | n + 1, v => nibbleOf v :: nibblesOfNat n (v / 2 ^ 4)

/-- The whole nibbles a buffer holds, oldest first. -/
def heldNibbles (b : BitBuffer) : List Nibble := nibblesOfNat (b.fillBits / 4) b.value

theorem nibbleOf_eq_of_mod {v w : Nat} (h : v % 2 ^ 4 = w % 2 ^ 4) : nibbleOf v = nibbleOf w :=
  BitVec.eq_of_toNat_eq h

/-- The nibbles of a number in two parts: the lowest `m`, then those above them. -/
theorem nibblesOfNat_add (m n w : Nat) {v : Nat} (hv : v < 2 ^ (4 * m)) :
    nibblesOfNat (m + n) (v + 2 ^ (4 * m) * w) = nibblesOfNat m v ++ nibblesOfNat n w := by
  induction m generalizing v with
  | zero =>
    rw [Nat.mul_zero, Nat.pow_zero, Nat.lt_one_iff] at hv
    simp [hv, nibblesOfNat]
  | succ m ih =>
    have hsplit : v + 2 ^ (4 * (m + 1)) * w = v + 2 ^ 4 * (2 ^ (4 * m) * w) := by ring
    have hhigh : v / 2 ^ 4 < 2 ^ (4 * m) := by
      rw [Nat.div_lt_iff_lt_mul (Nat.two_pow_pos 4), ← Nat.pow_add]
      exact hv
    rw [Nat.succ_add, nibblesOfNat, nibblesOfNat, hsplit, Nat.add_mul_div_left _ _ (Nat.two_pow_pos 4), ih hhigh,
      nibbleOf_eq_of_mod (Nat.add_mul_mod_self_left v _ _)]
    rfl

/-- A byte's two nibbles, low one first (R32). -/
theorem nibblesOfNat_byte (b : Byte) : nibblesOfNat 2 b.toNat = nibblesOfBytes [b] := by
  have hlow : nibbleOf b.toNat = b.setWidth 4 := BitVec.eq_of_toNat_eq (by simp [nibbleOf])
  have hhigh : nibbleOf (b.toNat / 2 ^ 4) = (b >>> 4).setWidth 4 :=
    BitVec.eq_of_toNat_eq (by simp [nibbleOf, Nat.shiftRight_eq_div_pow])
  simp only [nibblesOfNat, nibblesOfBytes, hlow, hhigh]

/-- A byte pushed at a nibble boundary appends its nibbles to those held. -/
theorem heldNibbles_push (b : Byte) {v f : Nat} (hv : v < 2 ^ f) (hf : f % 4 = 0) :
    heldNibbles ⟨v + 2 ^ f * b.toNat, f + 8⟩ = heldNibbles ⟨v, f⟩ ++ nibblesOfBytes [b] := by
  obtain ⟨m, rfl⟩ := Nat.dvd_of_mod_eq_zero hf
  have hnew : (4 * m + 8) / 4 = m + 2 := by omega
  have hold : 4 * m / 4 = m := by omega
  rw [heldNibbles, heldNibbles, hnew, hold, nibblesOfNat_add m 2 _ hv, nibblesOfNat_byte]

/-- Four bits popped are the oldest nibble held. -/
theorem heldNibbles_pop {b c : BitBuffer} (hheld : 4 ≤ b.fillBits) (hv : c.value = b.value / 2 ^ 4)
    (hf : c.fillBits = b.fillBits - 4) : heldNibbles b = nibbleOf (b.peek 4) :: heldNibbles c := by
  have hcount : b.fillBits / 4 = (b.fillBits - 4) / 4 + 1 := by omega
  rw [heldNibbles, heldNibbles, hcount, hv, hf, nibblesOfNat, peek_eq_mod, nibbleOf_eq_of_mod (Nat.mod_mod _ _)]

/-- The nibbles given are those counted and folded, then those held. -/
def Covers (given : List Nibble) (s : State) : Prop :=
  ∃ folded, given = folded ++ heldNibbles s.buffer ∧ s.checksum.crc = folded.foldl crcStep 0 ∧
    s.checksum.nibbleCount = folded.length

theorem heldNibbles_empty : heldNibbles ⟨0, 0⟩ = [] := by simp [heldNibbles, nibblesOfNat]

theorem afterReset_covers (s : State) : Covers [] (afterReset s) := by
  refine ⟨[], ?_, rfl, rfl⟩
  rw [List.nil_append]
  exact heldNibbles_empty.symm

theorem drainLoop_covers {given : List Nibble} (n : Nat) (h : Covers given s) : Covers given (drainLoop n s) := by
  induction n generalizing s with
  | zero => exact h
  | succ n ih =>
    cases hdue : drainDue s with
    | true =>
      obtain ⟨t, ht, hvalue, hfill, _, _, _, hchecksum, _⟩ := drainOne_of_due hdue
      obtain ⟨folded, hgiven, hcrc, hcount⟩ := h
      rw [heldNibbles_pop (drainDue_iff.mp hdue).2 hvalue hfill] at hgiven
      rw [drainLoop_succ_of_due hdue ht]
      refine ih ⟨folded ++ [nibbleOf (s.buffer.peek 4)], by simpa using hgiven, ?_, ?_⟩
      · rw [hchecksum, List.foldl_append, ← hcrc]
        rfl
      · rw [hchecksum, List.length_append, ← hcount]
        rfl
    | false =>
      rw [drainLoop_of_not_due hdue]
      exact h

theorem ingest_covers {given : List Nibble} (b : Byte) (hs : Streaming s) (h : Covers given s) :
    Covers (given ++ nibblesOfBytes [b]) (ingest b s) := by
  have hroom := hs.room
  obtain ⟨_, ⟨_, hbelow⟩, ⟨hfour, _⟩, _⟩ := hs
  have hpush := push_eq_add (v := byteOperand b) hbelow hroom
  rw [show byteOperand b % 2 ^ 8 = b.toNat from Nat.mod_eq_of_lt b.isLt] at hpush
  obtain ⟨folded, hgiven, hcrc, hcount⟩ := h
  rw [ingest_of_push hpush]
  refine drainLoop_covers _ ?_
  obtain ⟨hbuffer, hchecksum, _⟩ := beforeDrain_frame _ s
  refine ⟨folded, ?_, (congrArg Checksum.crc hchecksum).trans hcrc,
    (congrArg Checksum.nibbleCount hchecksum).trans hcount⟩
  refine Eq.trans ?_ (congrArg (folded ++ heldNibbles ·) hbuffer.symm)
  rw [heldNibbles_push b hbelow hfour, hgiven, List.append_assoc]

theorem ingestAll_covers {given : List Nibble} (bs : List Byte) (hs : Streaming s) (h : Covers given s) :
    Covers (given ++ nibblesOfBytes bs) (ingestAll bs s) := by
  induction bs generalizing s given with
  | nil => simpa [nibblesOfBytes] using h
  | cons b bs ih =>
    have hnext := ih (ingest_streaming b hs) (ingest_covers b hs h)
    rwa [List.append_assoc] at hnext

theorem nibblesOfBytes_length (bs : List Byte) : (nibblesOfBytes bs).length = 2 * bs.length := by
  induction bs with
  | nil => rfl
  | cons b bs ih =>
    simp only [nibblesOfBytes, List.length_cons, ih]
    omega

/-- Settles O60: the nibbles given are the bytes' nibbles, so those folded are their first `nibbleCount`. -/
theorem checksumCoversTheStreamNibblesInOrder : Obligations.ChecksumCoversTheStreamNibblesInOrder := by
  intro s bs hcap
  obtain ⟨folded, hgiven, hcrc, hcount⟩ :=
    ingestAll_covers bs (afterReset_streaming hcap) (afterReset_covers s)
  rw [List.nil_append] at hgiven
  refine ⟨_, execSeq_reset_bytes bs hcap, ?_, ?_⟩
  · rw [hcount, ← nibblesOfBytes_length, hgiven, List.length_append]
    exact Nat.le_add_right _ _
  · rw [hcrc, hgiven, hcount, List.take_left]

end Sys2Proof.Machine
end
